-- ==== Sys2Proof/Word.lean ====
section
/-! DEFINITION. The word types of the part, the tables of like items, and one value for each port. -/

namespace Sys2Proof

/-- A byte on a host port. -/
abbrev Byte := BitVec 8

/-- A timebase value: a count of microseconds modulo 2³² (R24). -/
abbrev Time := BitVec 32

/-- E0 to E31 (R1). -/
abbrev EntryId := Fin 32

/-- S0 to S63 (R98). -/
abbrev SlotId := Fin 64

/-- M0 to M11 (R116). -/
abbrev MonId := Fin 12

/-- T0 to T3 (R26). -/
abbrev TimerId := Fin 4

/-- TRG0 to TRG3 (R31). -/
abbrev PinId := Fin 4

/-- Port A, Port B, Port C (spec 00, Conventions). -/
inductive Port where
  | a
  | b
  | c
  deriving DecidableEq, Repr

/-- A fixed number of like things, in index order. -/
structure Table (α : Type) (n : Nat) where
  cells : List α
  size : cells.length = n
  deriving DecidableEq, Repr

/-- The item of index `i`. -/
def Table.get {α : Type} {n : Nat} (t : Table α n) (i : Fin n) : α :=
  t.cells.get (i.cast t.size.symm)

/-- The table with `x` at index `i`. -/
def Table.set {α : Type} {n : Nat} (t : Table α n) (i : Fin n) (x : α) : Table α n :=
  ⟨t.cells.set i.val x, by simp [t.size]⟩

/-- The table that holds `x` everywhere. -/
def Table.fill {α : Type} (n : Nat) (x : α) : Table α n :=
  ⟨List.replicate n x, by simp⟩

/-- The table with `f` applied to every item. -/
def Table.map {α β : Type} {n : Nat} (f : α → β) (t : Table α n) : Table β n :=
  ⟨t.cells.map f, by simp [t.size]⟩

/-- One value for each port. -/
structure PerPort (α : Type) where
  a : α
  b : α
  c : α
  deriving DecidableEq, Repr

/-- The value of port `p`. -/
def PerPort.get {α : Type} (x : PerPort α) : Port → α
  | .a => x.a
  | .b => x.b
  | .c => x.c

/-- The values with `v` for port `p`. -/
def PerPort.set {α : Type} (x : PerPort α) (p : Port) (v : α) : PerPort α :=
  match p with
  | .a => { x with a := v }
  | .b => { x with b := v }
  | .c => { x with c := v }

/-- The values with `f p` applied to the value of each port `p`. -/
def PerPort.mapIdx {α β : Type} (f : Port → α → β) (x : PerPort α) : PerPort β :=
  ⟨f .a x.a, f .b x.b, f .c x.c⟩

/-- The same value for every port. -/
def PerPort.fill {α : Type} (v : α) : PerPort α := ⟨v, v, v⟩

/-- A set of ports. -/
abbrev PortSet := PerPort Bool

end Sys2Proof
end

