-- ==== Sys2Proof/Syntax.lean ====
section
/-! DEFINITION. The commands of the part: one constructor for each row of spec/opcode_table.json, with its operands.
A link command carries the port, the tag and the argument bytes as the frame brings them (R169); the owning block judges
the bytes (R187), so a value outside the encodings is an ordinary operand (notes/assumptions/18.md). -/

namespace Sys2Proof

/-- The ten bytes of entry contents (11 section 11.4). -/
structure RawEntry where
  pos : Byte
  neg : Byte
  gain : Byte
  settle : Byte
  avg : Byte
  dest : Byte
  trigger : Byte
  cls : Byte
  link : Byte
  notice : Byte
  deriving DecidableEq, Repr

/-- The eleven bytes of monitor contents (11 section 11.4), the 16-bit fields already put together. -/
structure RawMonitor where
  slot : Byte
  low : BitVec 16
  high : BitVec 16
  hyst : BitVec 16
  persist : Byte
  edge : Byte
  action : Byte
  target : Byte
  deriving DecidableEq, Repr

/-- The subject of a PROPOSE frame with its argument bytes (11 section 11.2). A subject code that names none of the nine
is a frame error (R171 check 5) and no command. -/
inductive RawSubject where
  | entrySet (e : Byte) (contents : RawEntry)
  | entryRemove (e : Byte)
  | monitorSet (m : Byte) (contents : RawMonitor)
  | monitorRemove (m : Byte)
  | timerSet (k : Byte) (period : BitVec 16) (run : Byte)
  | pinSet (k : Byte) (edge : Byte)
  | clockSet (mode : Byte) (divider : Byte)
  | agingSet (period : Byte)
  | windowSet (window : Byte)
  deriving DecidableEq, Repr

/-- What a port received in one frame: the whole bytes and the clocks of an incomplete last byte (R168). -/
structure RawFrame where
  bytes : List Byte
  extraClocks : Nat
  deriving DecidableEq, Repr

/-- A level on a trigger pin (R31). -/
inductive Level where
  | low
  | high
  deriving DecidableEq, Repr

/-- The cause of a device reset (R186). -/
inductive ResetCause where
  | power
  | pin
  deriving DecidableEq, Repr

/-- The voltages at the converter's inputs and its reference while a sample is taken, against analog ground and in one
unit, as fine as the sender likes (R67, R68; notes/assumptions/7.md). -/
structure Analog where
  ain : Vector Int 16
  temp : Int
  vmid : Int
  zero : Int
  vref : Nat
  deriving DecidableEq, Repr, Inhabited

/-- The offset and gain a calibration found (R81), in the units of the analog part, which the manual leaves out. -/
structure Calibration where
  offset : Int
  gain : Int
  deriving DecidableEq, Repr, Inhabited

/-- The commands: the rows of spec/opcode_table.json, in its order. -/
inductive Instr where
  | fetch (p : Port) (tag : Byte)
  | attach (p : Port) (tag timeout subs : Byte)
  | detach (p : Port) (tag : Byte)
  | subscribe (p : Port) (tag subs : Byte)
  | readStatus (p : Port) (tag : Byte)
  | restate (p : Port) (tag : Byte)
  | claimEntry (p : Port) (tag e : Byte)
  | writeEntry (p : Port) (tag e : Byte) (contents : RawEntry)
  | readEntry (p : Port) (tag e : Byte)
  | releaseEntry (p : Port) (tag e : Byte)
  | request (p : Port) (tag e : Byte)
  | cancel (p : Port) (tag e : Byte)
  | readSlots (p : Port) (tag first count : Byte)
  | continueSlots (p : Port) (tag : Byte)
  | claimMonitor (p : Port) (tag m : Byte)
  | writeMonitor (p : Port) (tag m : Byte) (contents : RawMonitor)
  | readMonitor (p : Port) (tag m : Byte)
  | releaseMonitor (p : Port) (tag m : Byte)
  | takeEvents (p : Port) (tag : Byte)
  | propose (p : Port) (tag : Byte) (subject : RawSubject)
  | vote (p : Port) (tag id choice : Byte)
  | withdraw (p : Port) (tag id : Byte)
  | readProposal (p : Port) (tag : Byte)
  | readCommon (p : Port) (tag : Byte)
  | frameError (p : Port) (frame : RawFrame)
  | sessionExpiry (p : Port)
  | deviceReset (cause : ResetCause)
  | resetRelease
  | pinInitialLevel (k : PinId) (level : Level)
  | timerExpiry (k : TimerId)
  | pinEdge (k : PinId) (level : Level)
  | endOfSettling
  | endOfSample (inputs : Analog)
  | completion (inputs : Analog)
  | calibrationEnd (found : Calibration)
  | lockReport
  | qualification (edges : Nat)
  | acquisitionDeadlineExpiry
  | proposalExpiry
  | frameStart (p : Port)
  deriving DecidableEq, Repr

/-- The cause of a frame error (R171). -/
inductive FrameCause where
  | length
  | crc
  | unknown
  deriving DecidableEq, Repr

/-- The judgement of a frame at its end (R171): an error with its cause, the tag and the command code received, or a
command that is taken. -/
inductive FrameVerdict where
  | error (cause : FrameCause) (tag echo : Byte)
  | taken (i : Instr)
  deriving DecidableEq, Repr

end Sys2Proof
end

