-- ==== Sys2Proof/Config.lean ====
section
/-! DEFINITION. The free values: what the manual leaves open. Each is a constant without a body, so nothing can be proved
of its values, and a statement that holds of the model holds whatever they are. -/

namespace Sys2Proof

/-- How the offset and gain in use enter a sample code before it is clamped (R67: they "are applied to every sample
code"; the arithmetic is not given), for a nominal code inside the range. DESIGN CHOICE, safe: notes/assumptions/8.md. -/
opaque Config.calibrated : Option Calibration → Int → Int

/-- The voltages at the inputs when a sample ends while no command is queued. DESIGN CHOICE, safe:
notes/assumptions/7.md. -/
opaque Config.analogAt : Nat → Analog

/-- What a calibration finds when it ends while no command is queued. DESIGN CHOICE, safe: notes/assumptions/8.md. -/
opaque Config.calibrationAt : Nat → Calibration

/-- Which of several events due in one instant is taken first when no command is queued (R29, R33, R158, R180).
DESIGN CHOICE, safe: notes/assumptions/2.md. -/
opaque Config.dueFirst : Nat → Nat

/-- Whether the next thing to happen, while CLKIN counts the converter's work or EXTERNAL is being acquired and nothing else is
due, is a rising edge of CLKIN and not the passing of time (R86 and R91 follow CLKIN edge by edge, whatever its frequency). DESIGN CHOICE, unsafe for the
phase of the divider alone: notes/assumptions/5.md. -/
opaque Config.clkinRises : Nat → Bool

end Sys2Proof
end

