-- ==== Sys2Proof/Decode.lean ====
section
/-! DEFINITION. The command frame of a host port: its CRC (R170), the judgement at its end (R171) and the command it
carries (11 section 11.2), the frame that carries a command, and the table words, of which this part has none. -/

namespace Sys2Proof

/-! ### Words of the opcode table -/

/-- The command that a word of the opcode table spells. No row of the table gives bits (fields and fixed are empty), so no
word spells one. -/
def decodeTableWord (_nbits _w : Nat) : Option Instr := none

/-! ### CRC (R170) -/

/-- One bit of the CRC-8 with polynomial x⁸ + x² + x + 1, most significant bit first. -/
def crcBit (x : Byte) : Byte := if x.msb then (x <<< 1) ^^^ 0x07 else x <<< 1

/-- One byte of the CRC. -/
def crcByte (crc b : Byte) : Byte :=
  crcBit (crcBit (crcBit (crcBit (crcBit (crcBit (crcBit (crcBit (crc ^^^ b))))))))

/-- The CRC of a list of bytes, from initial value 0xFF. -/
def crc8 (l : List Byte) : Byte := l.foldl crcByte 0xFF

/-! ### Multi-byte fields, most significant byte first -/

/-- Two bytes. -/
def be16 (x : BitVec 16) : List Byte := [x.extractLsb' 8 8, x.extractLsb' 0 8]

/-- The number of two bytes. -/
def word16 (hi lo : Byte) : BitVec 16 := hi ++ lo

/-- Entry contents in their byte order (11 section 11.4). -/
def rawEntryBytes (r : RawEntry) : List Byte :=
  [r.pos, r.neg, r.gain, r.settle, r.avg, r.dest, r.trigger, r.cls, r.link, r.notice]

/-- Monitor contents in their byte order (11 section 11.4). -/
def rawMonitorBytes (r : RawMonitor) : List Byte :=
  [r.slot] ++ be16 r.low ++ be16 r.high ++ be16 r.hyst ++ [r.persist, r.edge, r.action, r.target]

/-! ### The link layout table (11 section 11.2) -/

/-- The number of argument bytes of a command code other than PROPOSE; none for a code that names no command. -/
def argCount (code : Byte) : Option Nat :=
  match code.toNat with
  | 0x00 => some 0
  | 0x01 => some 2
  | 0x02 => some 0
  | 0x03 => some 1
  | 0x04 => some 0
  | 0x05 => some 0
  | 0x10 => some 1
  | 0x11 => some 11
  | 0x12 => some 1
  | 0x13 => some 1
  | 0x18 => some 1
  | 0x19 => some 1
  | 0x20 => some 2
  | 0x21 => some 0
  | 0x28 => some 1
  | 0x29 => some 12
  | 0x2A => some 1
  | 0x2B => some 1
  | 0x30 => some 0
  | 0x39 => some 2
  | 0x3A => some 1
  | 0x3B => some 0
  | 0x3C => some 0
  | _ => none

/-- The number of argument bytes of a PROPOSE, its subject code included; none for a code that names no subject. -/
def proposeArgCount (subject : Byte) : Option Nat :=
  match subject.toNat with
  | 0x01 => some 12
  | 0x02 => some 2
  | 0x03 => some 13
  | 0x04 => some 2
  | 0x05 => some 5
  | 0x06 => some 3
  | 0x07 => some 3
  | 0x08 => some 2
  | 0x09 => some 2
  | _ => none

/-- Checks 3 to 5 of R171: the number of argument bytes of the command, or the cause of the failed check. -/
def frameArgs (code : Byte) (rest : List Byte) : Except FrameCause Nat :=
  if code = 0x38 then
    match rest with
    | [] => .error .length
    | subject :: _ =>
      match proposeArgCount subject with
      | some n => .ok n
      | none => .error .unknown
  else
    match argCount code with
    | some n => .ok n
    | none => .error .unknown

/-- A command or subject without argument bytes. -/
def takeNone {α : Type} (x : α) : List Byte → Option α
  | [] => some x
  | _ => none

/-- A command or subject with one argument byte. -/
def takeOne {α : Type} (f : Byte → α) : List Byte → Option α
  | [x] => some (f x)
  | _ => none

/-- A command or subject with two argument bytes. -/
def takeTwo {α : Type} (f : Byte → Byte → α) : List Byte → Option α
  | [x, y] => some (f x y)
  | _ => none

/-- A command or subject with an entry and its contents. -/
def takeEntry {α : Type} (f : Byte → RawEntry → α) : List Byte → Option α
  | [e, c0, c1, c2, c3, c4, c5, c6, c7, c8, c9] => some (f e ⟨c0, c1, c2, c3, c4, c5, c6, c7, c8, c9⟩)
  | _ => none

/-- A command or subject with a monitor and its contents. -/
def takeMonitor {α : Type} (f : Byte → RawMonitor → α) : List Byte → Option α
  | [m, c0, c1, c2, c3, c4, c5, c6, c7, c8, c9, c10] =>
    some (f m ⟨c0, word16 c1 c2, word16 c3 c4, word16 c5 c6, c7, c8, c9, c10⟩)
  | _ => none

/-- A subject with a timer, its period and its run state. -/
def takeTimer {α : Type} (f : Byte → BitVec 16 → Byte → α) : List Byte → Option α
  | [k, p1, p0, run] => some (f k (word16 p1 p0) run)
  | _ => none

/-- The subject of a PROPOSE from its argument bytes. -/
def subjectOf (subject : Byte) (args : List Byte) : Option RawSubject :=
  match subject.toNat with
  | 0x01 => takeEntry .entrySet args
  | 0x02 => takeOne .entryRemove args
  | 0x03 => takeMonitor .monitorSet args
  | 0x04 => takeOne .monitorRemove args
  | 0x05 => takeTimer .timerSet args
  | 0x06 => takeTwo .pinSet args
  | 0x07 => takeTwo .clockSet args
  | 0x08 => takeOne .agingSet args
  | 0x09 => takeOne .windowSet args
  | _ => none

/-- The PROPOSE of a subject code and its argument bytes. -/
def proposeOf (p : Port) (tag : Byte) : List Byte → Option Instr
  | [] => none
  | subject :: rest => (subjectOf subject rest).map (.propose p tag)

/-- The command of a code, a tag and argument bytes of the table's length. -/
def commandOf (p : Port) (code tag : Byte) (args : List Byte) : Option Instr :=
  match code.toNat with
  | 0x00 => takeNone (.fetch p tag) args
  | 0x01 => takeTwo (.attach p tag) args
  | 0x02 => takeNone (.detach p tag) args
  | 0x03 => takeOne (.subscribe p tag) args
  | 0x04 => takeNone (.readStatus p tag) args
  | 0x05 => takeNone (.restate p tag) args
  | 0x10 => takeOne (.claimEntry p tag) args
  | 0x11 => takeEntry (.writeEntry p tag) args
  | 0x12 => takeOne (.readEntry p tag) args
  | 0x13 => takeOne (.releaseEntry p tag) args
  | 0x18 => takeOne (.request p tag) args
  | 0x19 => takeOne (.cancel p tag) args
  | 0x20 => takeTwo (.readSlots p tag) args
  | 0x21 => takeNone (.continueSlots p tag) args
  | 0x28 => takeOne (.claimMonitor p tag) args
  | 0x29 => takeMonitor (.writeMonitor p tag) args
  | 0x2A => takeOne (.readMonitor p tag) args
  | 0x2B => takeOne (.releaseMonitor p tag) args
  | 0x30 => takeNone (.takeEvents p tag) args
  | 0x38 => proposeOf p tag args
  | 0x39 => takeTwo (.vote p tag) args
  | 0x3A => takeOne (.withdraw p tag) args
  | 0x3B => takeNone (.readProposal p tag) args
  | 0x3C => takeNone (.readCommon p tag) args
  | _ => none

/-- The judgement of a frame at its end: the eight checks of R171 in order. The tag and the echo of an error are the bytes
received, or 0 when the frame ended before they were complete. -/
def decodeFrame (p : Port) (f : RawFrame) : FrameVerdict :=
  let echo := f.bytes.headD 0
  let tag := (f.bytes.drop 1).headD 0
  if f.extraClocks ≠ 0 ∨ 64 < f.bytes.length then .error .length tag echo
  else
    match f.bytes with
    | code :: tag :: rest =>
      match frameArgs code rest with
      | .error cause => .error cause tag code
      | .ok n =>
        if rest.length < n + 1 then .error .length tag code
        else if (rest.drop (n + 1)).any (· ≠ 0xFF) then .error .length tag code
        else if rest.getD n 0 ≠ crc8 (code :: tag :: rest.take n) then .error .crc tag code
        else
          match commandOf p code tag (rest.take n) with
          | some i => .taken i
          | none => .error .unknown tag code
    | _ => .error .length tag echo

/-! ### The frame of a command -/

/-- The subject code and argument bytes of a PROPOSE. -/
def subjectBytes : RawSubject → List Byte
  | .entrySet e c => 0x01 :: e :: rawEntryBytes c
  | .entryRemove e => [0x02, e]
  | .monitorSet m c => 0x03 :: m :: rawMonitorBytes c
  | .monitorRemove m => [0x04, m]
  | .timerSet k period run => [0x05, k] ++ be16 period ++ [run]
  | .pinSet k edge => [0x06, k, edge]
  | .clockSet mode divider => [0x07, mode, divider]
  | .agingSet period => [0x08, period]
  | .windowSet window => [0x09, window]

/-- The port, code, tag and argument bytes of a command that a frame carries; none for the other rows. -/
def frameParts : Instr → Option (Port × Byte × Byte × List Byte)
  | .fetch p tag => some (p, 0x00, tag, [])
  | .attach p tag timeout subs => some (p, 0x01, tag, [timeout, subs])
  | .detach p tag => some (p, 0x02, tag, [])
  | .subscribe p tag subs => some (p, 0x03, tag, [subs])
  | .readStatus p tag => some (p, 0x04, tag, [])
  | .restate p tag => some (p, 0x05, tag, [])
  | .claimEntry p tag e => some (p, 0x10, tag, [e])
  | .writeEntry p tag e c => some (p, 0x11, tag, e :: rawEntryBytes c)
  | .readEntry p tag e => some (p, 0x12, tag, [e])
  | .releaseEntry p tag e => some (p, 0x13, tag, [e])
  | .request p tag e => some (p, 0x18, tag, [e])
  | .cancel p tag e => some (p, 0x19, tag, [e])
  | .readSlots p tag first count => some (p, 0x20, tag, [first, count])
  | .continueSlots p tag => some (p, 0x21, tag, [])
  | .claimMonitor p tag m => some (p, 0x28, tag, [m])
  | .writeMonitor p tag m c => some (p, 0x29, tag, m :: rawMonitorBytes c)
  | .readMonitor p tag m => some (p, 0x2A, tag, [m])
  | .releaseMonitor p tag m => some (p, 0x2B, tag, [m])
  | .takeEvents p tag => some (p, 0x30, tag, [])
  | .propose p tag subject => some (p, 0x38, tag, subjectBytes subject)
  | .vote p tag id choice => some (p, 0x39, tag, [id, choice])
  | .withdraw p tag id => some (p, 0x3A, tag, [id])
  | .readProposal p tag => some (p, 0x3B, tag, [])
  | .readCommon p tag => some (p, 0x3C, tag, [])
  | .frameError _ _ => none
  | .sessionExpiry _ => none
  | .deviceReset _ => none
  | .resetRelease => none
  | .pinInitialLevel _ _ => none
  | .timerExpiry _ => none
  | .pinEdge _ _ => none
  | .endOfSettling => none
  | .endOfSample _ => none
  | .completion _ => none
  | .calibrationEnd _ => none
  | .lockReport => none
  | .qualification _ => none
  | .acquisitionDeadlineExpiry => none
  | .proposalExpiry => none
  | .frameStart _ => none

/-- The command frame of a command (R169), with `filler` bytes of 0xFF after its CRC. -/
def encodeFrame (i : Instr) (filler : Nat) : Option RawFrame :=
  match frameParts i with
  | some (_, code, tag, args) =>
    some ⟨code :: tag :: (args ++ crc8 (code :: tag :: args) :: List.replicate filler 0xFF), 0⟩
  | none => none

end Sys2Proof
end

