-- ==== Sys2Proof/Machine/State.lean ====
section
/-! DEFINITION. The state of the part as plain data: everything the manual says a block holds, the commands that wait, and
the state after reset. A field that the manual says is present exactly while another has some value stands inside that
value, so the two cannot disagree; a count the manual defines from other state is computed (notes/assumptions/22.md). -/

namespace Sys2Proof.Machine

/-! ### Plan entries (Chapter 1) -/

/-- Positive input of an entry (R1, section 1.1). -/
inductive PosInput where
  | ain (n : Fin 16)
  | temp
  | vmid
  | zero
  deriving DecidableEq, Repr

/-- Negative input of an entry (R1, section 1.1). -/
inductive NegInput where
  | ground
  | ain (n : Fin 16)
  deriving DecidableEq, Repr

/-- Gain 1, 4 or 16. -/
inductive Gain where
  | x1
  | x4
  | x16
  deriving DecidableEq, Repr

/-- Averaging of 1, 2, 4 or 8 samples. -/
inductive Averaging where
  | n1
  | n2
  | n4
  | n8
  deriving DecidableEq, Repr

/-- The trigger field of an entry (R1). -/
inductive Trigger where
  | off
  | timer (k : TimerId)
  | pin (k : PinId)
  deriving DecidableEq, Repr

/-- The ten content fields of an entry (R1). -/
structure EntryContents where
  pos : PosInput
  neg : NegInput
  gain : Gain
  settle : Fin 16
  avg : Averaging
  dest : SlotId
  trigger : Trigger
  cls : Fin 4
  link : Option EntryId
  notice : Bool
  deriving DecidableEq, Repr

/-- The default contents of a FREE entry (R1, section 1.1). -/
def EntryContents.default : EntryContents :=
  { pos := .zero, neg := .ground, gain := .x1, settle := 0, avg := .n1, dest := 0, trigger := .off, cls := 0,
    link := none, notice := false }

/-- The ownership class of an entry or monitor (section 1.2): PRIVATE to a port, or COMMON. -/
inductive Scope where
  | own (p : Port)
  | common
  deriving DecidableEq, Repr

/-- FREE, RESERVED, or in a scope: PRIVATE with its owner, or COMMON (R2, R117). -/
inductive ItemState where
  | free
  | reserved
  | scoped (sc : Scope)
  deriving DecidableEq, Repr

/-- A plan entry (R1, R2). -/
structure Entry where
  contents : EntryContents
  state : ItemState
  revision : BitVec 8
  overruns : BitVec 8
  drops : BitVec 8
  overrunPending : Bool
  deriving DecidableEq, Repr

/-! ### Timers and pins (Chapter 2) -/

/-- The run state of a timer; the next expiry is present exactly while RUNNING (R26). -/
inductive TimerRun where
  | stopped
  | running (next : Time)
  deriving DecidableEq, Repr

/-- An interval timer: period in units of 100 µs and run state (R26). -/
structure Timer where
  period : BitVec 16
  run : TimerRun
  deriving DecidableEq, Repr

/-- The edge mode of a trigger pin (R32). -/
inductive EdgeMode where
  | off
  | rising
  | falling
  | both
  deriving DecidableEq, Repr

/-- A trigger pin: edge mode (R32), recorded level, absent until the first level after reset is recorded, and the time since
that level was recorded or, before the first, since reset release, in counts of 12.5 ns, stopping at the 20 (250 ns) that
a new level must hold (R31). -/
structure Pin where
  mode : EdgeMode
  level : Option Level
  since : Nat
  deriving DecidableEq, Repr

/-! ### Tickets (Chapter 3) -/

/-- The source of a trigger (R37). -/
inductive Origin where
  | port (p : Port)
  | timer (k : TimerId)
  | pin (k : PinId)
  | monitor (m : MonId)
  deriving DecidableEq, Repr

/-- A ticket of the Dispatch Queue (R38). -/
structure Ticket where
  entry : EntryId
  origin : Origin
  cls : Fin 4
  number : BitVec 16
  time : Time
  deriving DecidableEq, Repr

/-! ### Converter (Chapter 4) -/

/-- The copy taken at dispatch (R65). -/
structure Copy where
  entry : EntryId
  pos : PosInput
  neg : NegInput
  gain : Gain
  settle : Fin 16
  avg : Averaging
  dest : SlotId
  link : Option EntryId
  notice : Bool
  revision : BitVec 8
  scope : Scope
  position : Nat
  deriving DecidableEq, Repr

/-- The converter's state with the conversion in flight, which exists exactly while SETTLING or SAMPLING (R64): the copy
and, while SAMPLING, the samples ended, their sum and the full-scale note (R70). -/
inductive Converter where
  | calibrating
  | idle
  | settling (copy : Copy)
  | sampling (copy : Copy) (taken : Nat) (sum : Int) (fullScale : Bool)
  | held
  deriving DecidableEq, Repr

/-! ### Sampling Clock (Chapter 5) -/

/-- Clock mode (section 5.1). -/
inductive ClockMode where
  | internal
  | multiplied
  | external
  deriving DecidableEq, Repr

/-- Clock divider (section 5.1). -/
inductive Divider where
  | d1
  | d2
  | d4
  | d8
  deriving DecidableEq, Repr

/-- A mode and a divider (R85). -/
structure ClockSetting where
  mode : ClockMode
  divider : Divider
  deriving DecidableEq, Repr

/-- The switch phase, with the request present exactly while a switch is in progress (R84). -/
inductive SwitchPhase where
  | none
  | draining (request : ClockSetting)
  | acquiring (request : ClockSetting)
  deriving DecidableEq, Repr

/-- The state of the locked loop (R84). -/
inductive Loop where
  | stopped
  | starting
  | locked
  deriving DecidableEq, Repr

/-- A run of CLKIN (R91): the rising edges in it, the time since the first of them and the time since the latest, in counts
of 12.5 ns (notes/assumptions/16.md). -/
structure ClkinRun where
  edges : Nat
  length : Nat
  since : Nat
  deriving DecidableEq, Repr

/-- The Sampling Clock (R84). The measured CLKIN frequency is the number of rising edges in 256 µs (R91). The run is the one
in progress while CLKIN is being qualified, absent when there is none (R91). -/
structure Clock where
  active : ClockSetting
  phase : SwitchPhase
  deadline : Option Time
  measured : Option Nat
  loop : Loop
  run : Option ClkinRun
  deriving DecidableEq, Repr

/-! ### Result Store (Chapter 6) -/

/-- A slot record (R98). -/
structure SlotRecord where
  value : BitVec 16
  sequence : BitVec 16
  timestamp : Time
  source : EntryId
  revision : BitVec 8
  valid : Bool
  overrange : Bool
  overrun : Bool
  retired : Bool
  deriving DecidableEq, Repr

/-! ### Limit monitors (Chapter 7) -/

/-- A zone other than UNKNOWN (R116). -/
inductive Zone where
  | below
  | inside
  | above
  deriving DecidableEq, Repr

/-- Persistence 1 to 4 (section 7.1). -/
inductive Persistence where
  | p1
  | p2
  | p3
  | p4
  deriving DecidableEq, Repr

/-- Edge mode of a monitor (R128). -/
inductive MonitorEdge where
  | enterAbove
  | enterBelow
  | leaveInside
  | anyChange
  deriving DecidableEq, Repr

/-- Action of a monitor (section 7.1). -/
inductive MonitorAction where
  | notify
  | notifyAndTrigger (target : EntryId)
  deriving DecidableEq, Repr

/-- The seven content fields of a monitor (R116). The limits are signed 16-bit numbers. -/
structure MonitorContents where
  slot : SlotId
  low : BitVec 16
  high : BitVec 16
  hyst : Fin 1024
  persist : Persistence
  edge : MonitorEdge
  action : MonitorAction
  deriving DecidableEq, Repr

/-- The default contents of a FREE monitor (section 7.1). -/
def MonitorContents.default : MonitorContents :=
  { slot := 0, low := BitVec.ofInt 16 (-32768), high := BitVec.ofInt 16 32767, hyst := 0, persist := .p1,
    edge := .anyChange, action := .notify }

/-- A limit monitor (R117). The zone is absent while UNKNOWN; the candidate zone and its count are absent together. -/
structure Monitor where
  contents : MonitorContents
  state : ItemState
  revision : BitVec 8
  zone : Option Zone
  candidate : Option (Zone × Nat)
  crossings : BitVec 16
  deriving DecidableEq, Repr

/-! ### Notices and event records (Chapter 8) -/

/-- The kinds of an event record (R132). -/
inductive NoticeKind where
  | completion
  | monitor
  | dropped
  | discarded
  | proposal
  | clock
  | peer
  | overflow
  deriving DecidableEq, Repr

/-- The detail of a MONITOR record (R132). -/
inductive MonitorDetail where
  | zone (z : Zone)
  | retargeted
  deriving DecidableEq, Repr

/-- The cause of a DISCARDED record (R132). -/
inductive DiscardCause where
  | edited
  | released
  | chainBroken
  deriving DecidableEq, Repr

/-- The outcome of a proposal; `opened` also stands for OPEN (11 section 11.3). -/
inductive ProposalOutcome where
  | opened
  | adopted
  | refused
  | expired
  | withdrawn
  deriving DecidableEq, Repr

/-- The cause of a failed clock switch (R94). -/
inductive SwitchCause where
  | lockTimeout
  | noClock
  | tooFast
  deriving DecidableEq, Repr

/-- The outcome of a clock switch (R95). -/
inductive SwitchOutcome where
  | done
  | failed (cause : SwitchCause)
  deriving DecidableEq, Repr

/-- The detail of a PEER record (R182). -/
inductive PeerDetail where
  | attached
  | detached
  | expired
  deriving DecidableEq, Repr

/-- What a record says: its kind with subject, detail and value (R132). -/
inductive Notice where
  | completion (e : EntryId) (slot : SlotId) (sequence : BitVec 16) (value : BitVec 16)
  | monitor (m : MonId) (detail : MonitorDetail) (value : BitVec 16)
  | dropped (e : EntryId)
  | discarded (e : EntryId) (cause : DiscardCause)
  | proposal (id : BitVec 8) (outcome : ProposalOutcome) (author : Port)
  | clock (setting : ClockSetting) (outcome : SwitchOutcome)
  | peer (p : Port) (detail : PeerDetail) (number : BitVec 8)
  | overflow (firstLost : NoticeKind)
  deriving DecidableEq, Repr

/-- An event record: what it says, how many notices it stands for, and its stamp (R132). -/
structure EventRecord where
  notice : Notice
  count : BitVec 8
  stamp : Time
  deriving DecidableEq, Repr

/-- A subscription set (R136). -/
structure Subscriptions where
  completion : Bool
  monitor : Bool
  loss : Bool
  clock : Bool
  peer : Bool
  deriving DecidableEq, Repr

/-- The empty subscription set. -/
def Subscriptions.empty : Subscriptions := ⟨false, false, false, false, false⟩

/-! ### Proposals (Chapter 9) -/

/-- The subject of a proposal with its arguments (section 9.3). -/
inductive Subject where
  | entrySet (e : EntryId) (contents : EntryContents)
  | entryRemove (e : EntryId)
  | monitorSet (m : MonId) (contents : MonitorContents)
  | monitorRemove (m : MonId)
  | timerSet (k : TimerId) (period : BitVec 16) (run : Bool)
  | pinSet (k : PinId) (edge : EdgeMode)
  | clockSet (setting : ClockSetting)
  | agingSet (period : BitVec 8)
  | windowSet (window : BitVec 8)
  deriving DecidableEq, Repr

/-- An open proposal (R150). -/
structure Proposal where
  id : BitVec 8
  author : Port
  subject : Subject
  deadline : Time
  required : PortSet
  accepted : PortSet
  deriving DecidableEq, Repr

/-! ### Ports (Chapters 6, 8 and 10) -/

/-- The status of a response record (section 10.8). -/
inductive Status where
  | ok
  | coalesced
  | already
  | busy
  | denied
  | notAttached
  | invalid
  | quota
  | queueFull
  | chainInvalid
  | noProposal
  | noData
  | frameError
  | notReady
  | reset
  | expired
  deriving DecidableEq, Repr

/-- A response record (R172), without the length and CRC bytes, which are computed when it is sent. -/
structure Response where
  tag : Byte
  echo : Byte
  status : Status
  data : List Byte
  deriving DecidableEq, Repr

/-- The select line of a port: no frame in progress, a frame with the record its SDOx shifts out (R168), or a frame that a
device reset abandoned or that began while the reset was held, which is not judged (R186). -/
inductive FrameLine where
  | idle
  | shifting (out : Response)
  | abandoned
  deriving DecidableEq, Repr

/-- What one port holds: its session record (R176), its event queue and subscription set (R133), its snapshot buffer and
abandon counter (R106), its response slot (R172), its frame in progress (R168), and the time since its previous frame
ended, in counts of 12.5 ns, stopping at the 160 (2 µs) that R175 asks for. -/
structure PortState where
  attached : Bool
  number : BitVec 8
  timeout : BitVec 8
  deadline : Option Time
  subs : Subscriptions
  events : List EventRecord
  snapshot : List (SlotId × SlotRecord)
  abandons : BitVec 8
  slot : Response
  frame : FrameLine
  gap : Nat
  deriving DecidableEq, Repr

/-! ### The whole state -/

/-- The state of the part. -/
structure State where
  /-- The Plan Table (R1). -/
  entries : Table Entry 32
  /-- The limit monitors (R116). -/
  monitors : Table Monitor 12
  /-- The Result Store (R98). -/
  slots : Table SlotRecord 64
  /-- The interval timers (R26). -/
  timers : Table Timer 4
  /-- The trigger pins (R31, R32). -/
  pins : Table Pin 4
  /-- The timebase (R24). -/
  timebase : Time
  /-- Counts of 12.5 ns since the timebase last advanced (notes/assumptions/1.md). -/
  sub : Fin 80
  /-- The waiting tickets, oldest first (R39). -/
  queue : List Ticket
  /-- The arrival counter (R40). -/
  arrival : BitVec 16
  /-- The aging period in ms (R58). -/
  aging : BitVec 8
  /-- The converter (R64). -/
  converter : Converter
  /-- The offset and gain in use, absent until the first calibration ends (R81, R83). -/
  calibration : Option Calibration
  /-- The count left of the present settling, sample or calibration, absent when nothing runs (R69, R70, R81): counts of
  12.5 ns on INTERNAL and MULTIPLIED, rising edges of CLKIN on EXTERNAL (R86; notes/assumptions/5.md). -/
  work : Option Nat
  /-- The Sampling Clock (R84). -/
  clock : Clock
  /-- The three ports. -/
  ports : PerPort PortState
  /-- The proposal slot (R150). -/
  proposal : Option Proposal
  /-- The identifier counter (R150). -/
  nextId : BitVec 8
  /-- The vote window in ms (R148). -/
  window : BitVec 8
  /-- The last reset cause (R186). -/
  resetCause : ResetCause
  /-- The device reset is held: power-up not yet over, or RSTN low (R83, R186). -/
  resetHeld : Bool
  /-- The model's own counter that the free values are applied to (notes/assumptions/21.md). -/
  fresh : Nat
  /-- The commands that wait, first in, first out. -/
  pending : List Instr
  deriving DecidableEq, Repr

/-- Why the machine stops with a fault: never. The manual describes no event that stops the part: an error is an answer, a
marker, a FRAME_ERROR record or a notice, all of them state. Safe: there is nothing that a claim could miss. -/
inductive Fault where
  deriving DecidableEq, Repr

/-- Why the machine refuses a command. -/
inductive Refusal where
  /-- Raised by no arm: every row has its meaning. Safe. -/
  | notModelled (mnemonic : String)
  deriving DecidableEq, Repr

/-! ### Reset -/

/-- A FREE entry of revision `r`: default contents, zero counters (R1). -/
def Entry.free (r : BitVec 8) : Entry :=
  { contents := .default, state := .free, revision := r, overruns := 0, drops := 0, overrunPending := false }

/-- A FREE monitor of revision `r`: default contents, UNKNOWN, no candidate, no crossings (R117). -/
def Monitor.free (r : BitVec 8) : Monitor :=
  { contents := .default, state := .free, revision := r, zone := none, candidate := none, crossings := 0 }

/-- A slot never written since reset (R98). -/
def SlotRecord.reset : SlotRecord :=
  { value := 0, sequence := 0, timestamp := 0, source := 0, revision := 0, valid := false, overrange := false,
    overrun := false, retired := false }

/-- The byte of a reset cause (11 section 11.3). -/
def resetCauseByte : ResetCause → Byte
  | .power => 0x01
  | .pin => 0x02

/-- The RESET marker record (R172). -/
def Response.resetMarker (cause : ResetCause) : Response :=
  { tag := 0, echo := 0, status := .reset, data := [resetCauseByte cause] }

/-- A port after device reset (R106, R133, R176, R186). -/
def PortState.reset (cause : ResetCause) : PortState :=
  { attached := false, number := 0, timeout := 0, deadline := none, subs := .empty, events := [], snapshot := [],
    abandons := 0, slot := .resetMarker cause, frame := .idle, gap := 160 }

/-- The Sampling Clock after device reset (R84, R97). -/
def Clock.reset : Clock :=
  { active := ⟨.internal, .d1⟩, phase := .none, deadline := none, measured := none, loop := .stopped,
    run := none }

/-- The state right after the release of a device reset of cause `cause`. The work left is that of the first calibration,
4096 periods of 8 MHz (R83). -/
def State.afterReset (cause : ResetCause) : State :=
  { entries := .fill 32 (.free 0)
    monitors := .fill 12 (.free 0)
    slots := .fill 64 .reset
    timers := .fill 4 ⟨10000, .stopped⟩
    pins := .fill 4 ⟨.off, none, 0⟩
    timebase := 0
    sub := 0
    queue := []
    arrival := 0
    aging := 0
    converter := .calibrating
    calibration := none
    work := some 40960
    clock := .reset
    ports := .fill (.reset cause)
    proposal := none
    nextId := 0
    window := 40
    resetCause := cause
    resetHeld := false
    fresh := 0
    pending := [] }

/-- The machine right after reset: the release of a power-up (notes/assumptions/10.md). -/
def State.reset : State := State.afterReset .power

end Sys2Proof.Machine
end

