-- ==== Sys2Proof/Machine/Operands.lean ====
section
/-! DEFINITION. Every operand form: the argument bytes of a command read as the values the tables of Chapter 11 list
(absent where they list none, R187), and every value written as its bytes (R188). -/

namespace Sys2Proof.Machine

/-! ### Numbers and bytes, most significant byte first (11, introduction) -/

/-- The byte of a number below 256. -/
def byteOf (n : Nat) : Byte := BitVec.ofNat 8 n

/-- Four bytes. -/
def be32 (x : BitVec 32) : List Byte :=
  [x.extractLsb' 24 8, x.extractLsb' 16 8, x.extractLsb' 8 8, x.extractLsb' 0 8]

/-- A flag byte: 0x01 for yes. -/
def flagByte (b : Bool) : Byte := if b then 1 else 0

/-- The index a byte names among `n` items, if it names one. -/
def indexOf (n : Nat) (b : Byte) : Option (Fin n) :=
  if h : b.toNat < n then some ⟨b.toNat, h⟩ else none

/-- The byte of an index. -/
def indexByte {n : Nat} (i : Fin n) : Byte := byteOf i.val

/-- The byte of an index that may be absent: 0xFF when it is (11 section 11.3). -/
def optIndexByte {n : Nat} : Option (Fin n) → Byte
  | none => 0xFF
  | some i => indexByte i

/-! ### Ports and sets (11 section 11.3) -/

/-- The index of a port. -/
def portByte : Port → Byte
  | .a => 0
  | .b => 1
  | .c => 2

/-- A set of ports: bit 0 Port A, bit 1 Port B, bit 2 Port C. -/
def portSetByte (s : PortSet) : Byte := flagByte s.a + 2 * flagByte s.b + 4 * flagByte s.c

/-- A subscription set as its byte. -/
def subsByte (s : Subscriptions) : Byte :=
  flagByte s.completion + 2 * flagByte s.monitor + 4 * flagByte s.loss + 8 * flagByte s.clock + 16 * flagByte s.peer

/-- The subscription set a byte names; none when any of bits 7 to 5 is set (R187). -/
def readSubs (b : Byte) : Option Subscriptions :=
  if b.toNat < 32 then
    some ⟨b.getLsbD 0, b.getLsbD 1, b.getLsbD 2, b.getLsbD 3, b.getLsbD 4⟩
  else none

/-! ### Entry contents (11 section 11.4) -/

/-- Positive input: 0 to 15 AIN, 16 TEMP, 17 VMID, 18 ZERO. -/
def readPos (b : Byte) : Option PosInput :=
  match indexOf 16 b with
  | some n => some (.ain n)
  | none => if b = 16 then some .temp else if b = 17 then some .vmid else if b = 18 then some .zero else none

/-- The byte of a positive input. -/
def posByte : PosInput → Byte
  | .ain n => indexByte n
  | .temp => 16
  | .vmid => 17
  | .zero => 18

/-- Negative input: 0 to 15 AIN, 16 GROUND. -/
def readNeg (b : Byte) : Option NegInput :=
  match indexOf 16 b with
  | some n => some (.ain n)
  | none => if b = 16 then some .ground else none

/-- The byte of a negative input. -/
def negByte : NegInput → Byte
  | .ain n => indexByte n
  | .ground => 16

/-- Gain: 0x00 gain 1, 0x01 gain 4, 0x02 gain 16. -/
def readGain (b : Byte) : Option Gain :=
  if b = 0 then some .x1 else if b = 1 then some .x4 else if b = 2 then some .x16 else none

/-- The byte of a gain. -/
def gainByte : Gain → Byte
  | .x1 => 0
  | .x4 => 1
  | .x16 => 2

/-- Averaging: 0x00 one sample to 0x03 eight. -/
def readAvg (b : Byte) : Option Averaging :=
  if b = 0 then some .n1 else if b = 1 then some .n2 else if b = 2 then some .n4 else if b = 3 then some .n8 else none

/-- The byte of an averaging. -/
def avgByte : Averaging → Byte
  | .n1 => 0
  | .n2 => 1
  | .n4 => 2
  | .n8 => 3

/-- Trigger: 0x00 NONE, 0x10 to 0x13 TIMER, 0x20 to 0x23 PIN. -/
def readTrigger (b : Byte) : Option Trigger :=
  if b = 0 then some .off
  else if b.toNat / 16 = 1 then (indexOf 4 (b - 0x10)).map .timer
  else if b.toNat / 16 = 2 then (indexOf 4 (b - 0x20)).map .pin
  else none

/-- The byte of a trigger. -/
def triggerByte : Trigger → Byte
  | .off => 0
  | .timer k => 0x10 + indexByte k
  | .pin k => 0x20 + indexByte k

/-- Link: 0 to 31, or 0xFF absent. -/
def readLink (b : Byte) : Option (Option EntryId) :=
  if b = 0xFF then some none else (indexOf 32 b).map some

/-- Notice: 0x00 OFF, 0x01 ON. -/
def readFlag (b : Byte) : Option Bool :=
  if b = 0 then some false else if b = 1 then some true else none

/-- Entry contents from their ten bytes; none when a byte is not listed for its field (R8 check 1, R187). -/
def readContents (r : RawEntry) : Option EntryContents :=
  match readPos r.pos, readNeg r.neg, readGain r.gain, indexOf 16 r.settle, readAvg r.avg, indexOf 64 r.dest,
      readTrigger r.trigger, indexOf 4 r.cls, readLink r.link, readFlag r.notice with
  | some pos, some neg, some gain, some settle, some avg, some dest, some trigger, some cls, some link, some notice =>
    some { pos, neg, gain, settle, avg, dest, trigger, cls, link, notice }
  | _, _, _, _, _, _, _, _, _, _ => none

/-- The ten bytes of entry contents as fields. -/
def rawContents (c : EntryContents) : RawEntry :=
  { pos := posByte c.pos, neg := negByte c.neg, gain := gainByte c.gain, settle := indexByte c.settle,
    avg := avgByte c.avg, dest := indexByte c.dest, trigger := triggerByte c.trigger, cls := indexByte c.cls,
    link := optIndexByte c.link, notice := flagByte c.notice }

/-- Entry contents as their ten bytes. -/
def contentsBytes (c : EntryContents) : List Byte := rawEntryBytes (rawContents c)

/-! ### Monitor contents (11 section 11.4) -/

/-- Persistence 1 to 4. -/
def readPersist (b : Byte) : Option Persistence :=
  if b = 1 then some .p1 else if b = 2 then some .p2 else if b = 3 then some .p3 else if b = 4 then some .p4 else none

/-- The number of a persistence. -/
def persistCount : Persistence → Nat
  | .p1 => 1
  | .p2 => 2
  | .p3 => 3
  | .p4 => 4

/-- Edge mode of a monitor. -/
def readMonitorEdge (b : Byte) : Option MonitorEdge :=
  if b = 0 then some .enterAbove else if b = 1 then some .enterBelow else if b = 2 then some .leaveInside
  else if b = 3 then some .anyChange else none

/-- The byte of a monitor's edge mode. -/
def monitorEdgeByte : MonitorEdge → Byte
  | .enterAbove => 0
  | .enterBelow => 1
  | .leaveInside => 2
  | .anyChange => 3

/-- Action and target bytes: NOTIFY goes with 0xFF alone, NOTIFY_AND_TRIGGER with 0 to 31 alone (R187). -/
def readAction (action target : Byte) : Option MonitorAction :=
  if action = 0 then (if target = 0xFF then some .notify else none)
  else if action = 1 then (indexOf 32 target).map .notifyAndTrigger
  else none

/-- The byte of an action. -/
def actionByte : MonitorAction → Byte
  | .notify => 0
  | .notifyAndTrigger _ => 1

/-- The byte of an action's target. -/
def targetByte : MonitorAction → Byte
  | .notify => 0xFF
  | .notifyAndTrigger e => indexByte e

/-- Hysteresis 0 to 1023. -/
def readHyst (w : BitVec 16) : Option (Fin 1024) :=
  if h : w.toNat < 1024 then some ⟨w.toNat, h⟩ else none

/-- Monitor contents from their fields; none when one is not listed (R120 check 1, R187). -/
def readMonitorContents (r : RawMonitor) : Option MonitorContents :=
  match indexOf 64 r.slot, readHyst r.hyst, readPersist r.persist, readMonitorEdge r.edge,
      readAction r.action r.target with
  | some slot, some hyst, some persist, some edge, some action =>
    some { slot, low := r.low, high := r.high, hyst, persist, edge, action }
  | _, _, _, _, _ => none

/-- The fields of monitor contents as sent. -/
def rawMonitorContents (c : MonitorContents) : RawMonitor :=
  { slot := indexByte c.slot, low := c.low, high := c.high, hyst := BitVec.ofNat 16 c.hyst.val,
    persist := byteOf (persistCount c.persist), edge := monitorEdgeByte c.edge, action := actionByte c.action,
    target := targetByte c.action }

/-- Monitor contents as their eleven bytes. -/
def monitorContentsBytes (c : MonitorContents) : List Byte := rawMonitorBytes (rawMonitorContents c)

/-! ### Subjects (11 section 11.2) -/

/-- The run state byte: 0x00 STOPPED, 0x01 RUNNING. -/
def readRun (b : Byte) : Option Bool := readFlag b

/-- Pin edge mode. -/
def readEdgeMode (b : Byte) : Option EdgeMode :=
  if b = 0 then some .off else if b = 1 then some .rising else if b = 2 then some .falling
  else if b = 3 then some .both else none

/-- The byte of a pin edge mode. -/
def edgeModeByte : EdgeMode → Byte
  | .off => 0
  | .rising => 1
  | .falling => 2
  | .both => 3

/-- Clock mode. -/
def readClockMode (b : Byte) : Option ClockMode :=
  if b = 0 then some .internal else if b = 1 then some .multiplied else if b = 2 then some .external else none

/-- The byte of a clock mode. -/
def clockModeByte : ClockMode → Byte
  | .internal => 0
  | .multiplied => 1
  | .external => 2

/-- Divider: the divider itself. -/
def readDivider (b : Byte) : Option Divider :=
  if b = 1 then some .d1 else if b = 2 then some .d2 else if b = 4 then some .d4 else if b = 8 then some .d8 else none

/-- The number of a divider. -/
def dividerCount : Divider → Nat
  | .d1 => 1
  | .d2 => 2
  | .d4 => 4
  | .d8 => 8

/-- The byte of a divider. -/
def dividerByte (d : Divider) : Byte := byteOf (dividerCount d)

/-- A clock setting that passes the checks of R85: a listed mode, a listed divider, and not MULTIPLIED with 1. -/
def readClockSetting (mode divider : Byte) : Option ClockSetting :=
  match readClockMode mode, readDivider divider with
  | some m, some d => if m = .multiplied ∧ d = .d1 then none else some ⟨m, d⟩
  | _, _ => none

/-- The code of a subject (11 section 11.2). -/
def subjectCode : Subject → Byte
  | .entrySet _ _ => 0x01
  | .entryRemove _ => 0x02
  | .monitorSet _ _ => 0x03
  | .monitorRemove _ => 0x04
  | .timerSet _ _ _ => 0x05
  | .pinSet _ _ => 0x06
  | .clockSet _ => 0x07
  | .agingSet _ => 0x08
  | .windowSet _ => 0x09

/-- The argument bytes of a subject, as sent in PROPOSE (11 section 11.5, proposal record). -/
def subjectArgs : Subject → List Byte
  | .entrySet e c => indexByte e :: contentsBytes c
  | .entryRemove e => [indexByte e]
  | .monitorSet m c => indexByte m :: monitorContentsBytes c
  | .monitorRemove m => [indexByte m]
  | .timerSet k period run => [indexByte k] ++ be16 period ++ [flagByte run]
  | .pinSet k edge => [indexByte k, edgeModeByte edge]
  | .clockSet s => [clockModeByte s.mode, dividerByte s.divider]
  | .agingSet period => [period]
  | .windowSet window => [window]

/-- A VOTE's choice: 0x01 ACCEPT (true), 0x02 REFUSE (false) (R187). -/
def readChoice (b : Byte) : Option Bool :=
  if b = 1 then some true else if b = 2 then some false else none

/-! ### Items of the records that reads return (11 section 11.3) -/

/-- The byte of an entry's or monitor's state. -/
def itemStateByte : ItemState → Byte
  | .free => 0
  | .scoped (.own _) => 1
  | .scoped .common => 2
  | .reserved => 3

/-- The owner byte: 0xFF unless PRIVATE. -/
def ownerByte : ItemState → Byte
  | .scoped (.own p) => portByte p
  | _ => 0xFF

/-- The byte of a zone other than UNKNOWN. -/
def zoneByte : Zone → Byte
  | .below => 1
  | .inside => 2
  | .above => 3

/-- The byte of an accepted zone: 0x00 UNKNOWN. -/
def acceptedZoneByte : Option Zone → Byte
  | none => 0
  | some z => zoneByte z

/-- The byte of a candidate zone: 0xFF absent. -/
def candidateZoneByte : Option (Zone × Nat) → Byte
  | none => 0xFF
  | some c => zoneByte c.1

/-- The candidate count: 0 while the candidate is absent (R117). -/
def candidateCount : Option (Zone × Nat) → Nat
  | none => 0
  | some c => c.2

/-- The byte of a switch phase. -/
def phaseByte : SwitchPhase → Byte
  | .none => 0
  | .draining _ => 1
  | .acquiring _ => 2

/-- The requested mode and divider bytes: 0xFF, 0xFF while the phase is NONE. -/
def requestBytes : SwitchPhase → List Byte
  | .none => [0xFF, 0xFF]
  | .draining r => [clockModeByte r.mode, dividerByte r.divider]
  | .acquiring r => [clockModeByte r.mode, dividerByte r.divider]

/-- The byte of the converter state. -/
def converterByte : Converter → Byte
  | .calibrating => 0
  | .idle => 1
  | .settling _ => 2
  | .sampling _ _ _ _ => 3
  | .held => 4

/-- The byte of a proposal outcome. -/
def outcomeByte : ProposalOutcome → Byte
  | .opened => 0
  | .adopted => 1
  | .refused => 2
  | .expired => 3
  | .withdrawn => 4

/-- The byte of a status (11 section 11.6). -/
def statusByte : Status → Byte
  | .ok => 0x00
  | .coalesced => 0x01
  | .already => 0x02
  | .busy => 0x03
  | .denied => 0x04
  | .notAttached => 0x05
  | .invalid => 0x06
  | .quota => 0x07
  | .queueFull => 0x08
  | .chainInvalid => 0x09
  | .noProposal => 0x0A
  | .noData => 0x0B
  | .frameError => 0x10
  | .notReady => 0x11
  | .reset => 0x12
  | .expired => 0x13

end Sys2Proof.Machine
end

