-- ==== Sys2Proof/Machine/Flags.lean ====
section
/-! DEFINITION. Counters, sample codes, values, flags and zones: every computation on numbers that the manual gives. -/

namespace Sys2Proof.Machine

/-! ### Counters (spec 00, Conventions: saturating and wrapping) -/

/-- One more, stopping at the maximum of the width. -/
def satInc {w : Nat} (x : BitVec w) : BitVec w := if x.toNat + 1 < 2 ^ w then x + 1 else x

/-! ### Sample codes (R67, R68) -/

/-- The number a gain stands for. -/
def gainFactor : Gain → Nat
  | .x1 => 1
  | .x4 => 4
  | .x16 => 16

/-- The number of samples of an averaging. -/
def avgCount : Averaging → Nat
  | .n1 => 1
  | .n2 => 2
  | .n4 => 4
  | .n8 => 8

/-- The voltage the input selector brings to the positive side. -/
def posVoltage (x : Analog) : PosInput → Int
  | .ain n => x.ain.get n
  | .temp => x.temp
  | .vmid => x.vmid
  | .zero => x.zero

/-- The nominal sample code, rounded down, before offset, gain correction and clamp (R67). -/
def nominalCode (c : Copy) (x : Analog) : Int :=
  match c.neg with
  | .ground => (16384 * posVoltage x c.pos) / (x.vref : Int)
  | .ain n => (8192 * (gainFactor c.gain : Int) * (posVoltage x c.pos - x.ain.get n)) / (x.vref : Int)

/-- The lowest code of the conversion's kind (R67). -/
def lowCode (c : Copy) : Int :=
  match c.neg with
  | .ground => 0
  | .ain _ => -8192

/-- The highest code of the conversion's kind (R67). -/
def highCode (c : Copy) : Int :=
  match c.neg with
  | .ground => 16383
  | .ain _ => 8191

/-- The nearest end of the range for a code outside it (R67). -/
def clampCode (c : Copy) (code : Int) : Int :=
  if code < lowCode c then lowCode c else if highCode c < code then highCode c else code

/-- The sample code (R67, R72). A nominal code at an end of the range or beyond it gives that end; to any other the offset
and gain in use are applied before the clamp (notes/assumptions/8.md). -/
def sampleCode (cal : Option Calibration) (c : Copy) (x : Analog) : Int :=
  if nominalCode c x ≤ lowCode c then lowCode c
  else if highCode c ≤ nominalCode c x then highCode c
  else clampCode c (Config.calibrated cal (nominalCode c x))

/-- The code is a full-scale code of the conversion's kind (R67, R72). -/
def isFullScale (c : Copy) (code : Int) : Bool := code == lowCode c || code == highCode c

/-- The value: the sum divided by the number of samples, rounded toward minus infinity (R71), as a signed 16-bit number. -/
def resultValue (sum : Int) (avg : Averaging) : BitVec 16 := BitVec.ofInt 16 (sum / (avgCount avg : Int))

/-- The flag byte of a slot record: bit 0 VALID, bit 1 OVERRANGE, bit 2 OVERRUN, bit 3 RETIRED (11 section 11.5). -/
def slotFlags (r : SlotRecord) : Byte :=
  flagByte r.valid + 2 * flagByte r.overrange + 4 * flagByte r.overrun + 8 * flagByte r.retired

/-! ### Conversion clock (R69, R70, R73, R81) -/

/-- Conversion-clock periods of the settling. -/
def settlePeriods (c : Copy) : Nat := 8 + 8 * c.settle.val

/-- Conversion-clock periods of one sample. -/
def samplePeriods : Nat := 18

/-- Conversion-clock periods of a calibration. -/
def calibrationPeriods : Nat := 4096

/-- The counts of one conversion-clock period: of 12.5 ns on INTERNAL, which is 8 MHz over the divider, and
on MULTIPLIED, which is 32 MHz over the divider (section 5.1); rising edges of CLKIN on EXTERNAL, which is CLKIN over the
divider, edge by edge (R86; notes/assumptions/5.md). -/
def clockPeriod (s : ClockSetting) : Nat :=
  match s.mode with
  | .internal => 10 * dividerCount s.divider
  | .multiplied => 5 * dividerCount s.divider / 2
  | .external => dividerCount s.divider

/-- The measured CLKIN frequency over the requested divider is above 16 MHz (R92): `edges` in 256 µs. -/
def tooFast (edges : Nat) (d : Divider) : Bool := decide (16 * 256 * dividerCount d < edges)

/-! ### Zones (R116, R126, R128) -/

/-- The raw zone of a value by plain comparison with the limits. -/
def plainZone (c : MonitorContents) (v : Int) : Zone :=
  if v < c.low.toInt then .below else if c.high.toInt < v then .above else .inside

/-- The raw zone of a value, from the accepted zone and the hysteresis (R126). -/
def rawZone (c : MonitorContents) (accepted : Option Zone) (v : Int) : Zone :=
  match accepted with
  | some .above =>
    if c.high.toInt - (c.hyst.val : Int) ≤ v then .above else if v < c.low.toInt then .below else .inside
  | some .below =>
    if v ≤ c.low.toInt + (c.hyst.val : Int) then .below else if c.high.toInt < v then .above else .inside
  | some .inside => plainZone c v
  | none => plainZone c v

/-- A crossing from `old` to `new` matches the edge mode (R128). -/
def crossingMatches (edge : MonitorEdge) (old new : Zone) : Bool :=
  match edge with
  | .enterAbove => new == .above
  | .enterBelow => new == .below
  | .leaveInside => old == .inside
  | .anyChange => true

/-- How many evaluations in a row have given the raw zone `raw`, this one counted (R127). -/
def runLength (candidate : Option (Zone × Nat)) (raw : Zone) : Nat :=
  match candidate with
  | some (z, k) => if z = raw then k + 1 else 1
  | none => 1

/-- What one evaluation does to a monitor (R127), and the crossing it accepts, if any, as the old zone. -/
def evaluate (m : Monitor) (v : Int) : Monitor × Option (Zone × Zone) :=
  match m.zone with
  | none => ({ m with zone := some (rawZone m.contents none v), candidate := none }, none)
  | some old =>
    let raw := rawZone m.contents (some old) v
    if raw = old then ({ m with candidate := none }, none)
    else if runLength m.candidate raw = persistCount m.contents.persist then
      ({ m with zone := some raw, candidate := none, crossings := satInc m.crossings }, some (old, raw))
    else ({ m with candidate := some (raw, runLength m.candidate raw) }, none)

/-! ### Aging (R58) -/

/-- The effective class of a ticket at time `now` under aging period `aging` ms. -/
def effectiveClass (aging : BitVec 8) (now : Time) (t : Ticket) : Nat :=
  if aging = 0 then t.cls.val
  else min 3 (t.cls.val + (now - t.time).toNat / (aging.toNat * 1000))

end Sys2Proof.Machine
end

