-- ==== Sys2Proof/Machine/Ops.lean ====
section
/-! DEFINITION. The named operations that several commands share: access to the state's items, notices and their routing
(Chapter 8), tickets and the Arbiter (Chapter 3), the taking of a frame and the placing of its answer (Chapter 10). -/

namespace Sys2Proof.Machine

/-! ### Items of the state -/

/-- Entry `e`. -/
def State.entry (s : State) (e : EntryId) : Entry := s.entries.get e

/-- The state with entry `e` replaced. -/
def State.setEntry (s : State) (e : EntryId) (x : Entry) : State := { s with entries := s.entries.set e x }

/-- Monitor `m`. -/
def State.monitor (s : State) (m : MonId) : Monitor := s.monitors.get m

/-- The state with monitor `m` replaced. -/
def State.setMonitor (s : State) (m : MonId) (x : Monitor) : State := { s with monitors := s.monitors.set m x }

/-- The record of slot `i`. -/
def State.slotAt (s : State) (i : SlotId) : SlotRecord := s.slots.get i

/-- The state with the record of slot `i` replaced. -/
def State.setSlot (s : State) (i : SlotId) (x : SlotRecord) : State := { s with slots := s.slots.set i x }

/-- Timer `k`. -/
def State.timer (s : State) (k : TimerId) : Timer := s.timers.get k

/-- The state with timer `k` replaced. -/
def State.setTimer (s : State) (k : TimerId) (x : Timer) : State := { s with timers := s.timers.set k x }

/-- Pin `k`. -/
def State.pin (s : State) (k : PinId) : Pin := s.pins.get k

/-- The state with pin `k` replaced. -/
def State.setPin (s : State) (k : PinId) (x : Pin) : State := { s with pins := s.pins.set k x }

/-- Port `p`. -/
def State.port (s : State) (p : Port) : PortState := s.ports.get p

/-- The state with port `p` replaced. -/
def State.setPort (s : State) (p : Port) (x : PortState) : State := { s with ports := s.ports.set p x }

/-- The ports in index order. -/
def allPorts : List Port := [.a, .b, .c]

/-- The item is in a scope: PRIVATE or COMMON (R1, R21, R125). -/
def ItemState.inScope : ItemState → Bool
  | .scoped _ => true
  | .free => false
  | .reserved => false

/-- The item is FREE or COMMON, so a SET proposal may name it (R151). -/
def ItemState.proposable : ItemState → Bool
  | .free => true
  | .scoped .common => true
  | .scoped (.own _) => false
  | .reserved => false

/-- The state of an item PRIVATE to port `p`. -/
abbrev ItemState.ownedBy (p : Port) : ItemState := .scoped (.own p)

/-- The state of a COMMON item. -/
abbrev ItemState.shared : ItemState := .scoped .common

/-- The private entry count of port `p` (R3). -/
def State.entryCount (s : State) (p : Port) : Nat := s.entries.cells.countP (fun x => x.state == .ownedBy p)

/-- The private monitor count of port `p` (R119). -/
def State.monitorCount (s : State) (p : Port) : Nat := s.monitors.cells.countP (fun x => x.state == .ownedBy p)

/-- The attention line of port `p` is asserted (R145). -/
def State.attention (s : State) (p : Port) : Bool := (s.port p).attached && !(s.port p).events.isEmpty

/-! ### Event queues (Chapter 8) -/

/-- The kind of a notice (R132). -/
def Notice.kind : Notice → NoticeKind
  | .completion _ _ _ _ => .completion
  | .monitor _ _ _ => .monitor
  | .dropped _ => .dropped
  | .discarded _ _ => .discarded
  | .proposal _ _ _ => .proposal
  | .clock _ _ => .clock
  | .peer _ _ _ => .peer
  | .overflow _ => .overflow

/-- The record is the OVERFLOW record. -/
def EventRecord.isOverflow (r : EventRecord) : Bool := r.notice.kind == .overflow

/-- The record is a COMPLETION record with subject `e`. -/
def EventRecord.isCompletionOf (e : EntryId) (r : EventRecord) : Bool :=
  match r.notice with
  | .completion e' _ _ _ => e' == e
  | .monitor _ _ _ => false
  | .dropped _ => false
  | .discarded _ _ => false
  | .proposal _ _ _ => false
  | .clock _ _ => false
  | .peer _ _ _ => false
  | .overflow _ => false

/-- A record arrives: appended, or lost into the OVERFLOW record (R138, R141). -/
def arrive (q : List EventRecord) (n : Notice) (now : Time) : List EventRecord :=
  if q.any EventRecord.isOverflow then
    q.map fun r => if r.isOverflow then { r with count := satInc r.count } else r
  else if 15 ≤ q.length then q ++ [⟨.overflow n.kind, 1, now⟩]
  else q ++ [⟨n, 1, now⟩]

/-- A COMPLETION notice of entry `e` arrives: folded into the untaken COMPLETION record of `e`, if there is one (R139). -/
def arriveCompletion (q : List EventRecord) (e : EntryId) (n : Notice) (now : Time) : List EventRecord :=
  if q.any (EventRecord.isCompletionOf e) then
    q.map fun r => if r.isCompletionOf e then ⟨n, satInc r.count, now⟩ else r
  else arrive q n now

/-- A notice routed to a port joins its event queue. -/
def enqueue (q : List EventRecord) (n : Notice) (now : Time) : List EventRecord :=
  match n with
  | .completion e _ _ _ => arriveCompletion q e n now
  | .monitor _ _ _ => arrive q n now
  | .dropped _ => arrive q n now
  | .discarded _ _ => arrive q n now
  | .proposal _ _ _ => arrive q n now
  | .clock _ _ => arrive q n now
  | .peer _ _ _ => arrive q n now
  | .overflow _ => arrive q n now

/-- The port with a notice added to its event queue when it is a recipient and attached (notes/assumptions/13.md). -/
def PortState.receive (x : PortState) (recipient : Bool) (n : Notice) (now : Time) : PortState :=
  if recipient && x.attached then { x with events := enqueue x.events n now } else x

/-- A notice is raised to a set of ports, stamped with the timebase (R25, R132). -/
def State.raise (s : State) (n : Notice) (who : PortSet) : State :=
  { s with ports := s.ports.mapIdx fun p x => x.receive (who.get p) n s.timebase }

/-- The ports whose subscription set has a kind. -/
def State.subscribed (s : State) (kind : Subscriptions → Bool) : PortSet := s.ports.mapIdx fun _ x => kind x.subs

/-- The notice set of an item for a kind (R134): the owner of a PRIVATE item when it subscribes, the subscribed ports for a
COMMON one. -/
def State.noticeSet (s : State) (st : ItemState) (kind : Subscriptions → Bool) : PortSet :=
  s.ports.mapIdx fun p x =>
    match st with
    | .scoped (.own q) => p == q && kind x.subs
    | .scoped .common => kind x.subs
    | .free => false
    | .reserved => false

/-- The ports other than `p`. -/
def portsBut (p : Port) (set : PortSet) : PortSet := set.set p false

/-! ### Tickets (sections 3.1 to 3.3) -/

/-- The waiting ticket of entry `e`, if it has one. -/
def State.ticketOf (s : State) (e : EntryId) : Option Ticket := s.queue.find? (fun t => t.entry == e)

/-- The waiting-ticket count of port `p` (R41). -/
def State.waiting (s : State) (p : Port) : Nat := s.queue.countP (fun t => t.origin == .port p)

/-- The queue without the ticket of entry `e` (R39, R49). -/
def State.dropTicket (s : State) (e : EntryId) : State := { s with queue := s.queue.filter fun t => t.entry != e }

/-- The waiting ticket of `e` is discarded, with a DISCARDED notice when the cause raises one (R49, R50). -/
def State.discardTicket (s : State) (e : EntryId) (cause : Option DiscardCause) : State :=
  match s.ticketOf e, cause with
  | some _, some c => (s.dropTicket e).raise (.discarded e c) (s.noticeSet (s.entry e).state (·.loss))
  | some _, none => s.dropTicket e
  | none, _ => s

/-- The queue's decision on a trigger (R42). -/
inductive Admission where
  | notAdmitted
  | coalesced (number : BitVec 16) (overruns : BitVec 8)
  | quota
  | full
  | admitted (number : BitVec 16)
  deriving DecidableEq, Repr

/-- The port whose REQUEST raised a trigger. -/
def Origin.port? : Origin → Option Port
  | .port p => some p
  | .timer _ => none
  | .pin _ => none
  | .monitor _ => none

/-- Step 3 of R42 applies: a REQUEST of a port at its quota of 6. -/
def State.atQuota (s : State) (o : Origin) : Bool :=
  match o.port? with
  | some p => decide (6 ≤ s.waiting p)
  | none => false

/-- A trigger is dropped (R45): a REQUEST changes nothing; any other origin counts and raises a DROPPED notice. -/
def State.dropTrigger (s : State) (e : EntryId) (o : Origin) : State :=
  match o.port? with
  | some _ => s
  | none =>
    (s.setEntry e { s.entry e with drops := satInc (s.entry e).drops }).raise (.dropped e)
      (s.noticeSet (s.entry e).state (·.loss))

/-- A trigger is folded into a waiting ticket (R43). -/
def State.coalesce (s : State) (e : EntryId) : State :=
  s.setEntry e { s.entry e with overruns := satInc (s.entry e).overruns, overrunPending := true }

/-- A ticket is appended (R46). -/
def State.append (s : State) (e : EntryId) (o : Origin) : State :=
  { s with
    queue := s.queue ++ [⟨e, o, (s.entry e).contents.cls, s.arrival, s.timebase⟩]
    arrival := s.arrival + 1 }

/-- The decision on a trigger for `e` of origin `o`, by the five steps of R42. -/
def State.trigger (s : State) (e : EntryId) (o : Origin) : State × Admission :=
  if (s.entry e).state.inScope then
    match s.ticketOf e with
    | some t => (s.coalesce e, .coalesced t.number (satInc (s.entry e).overruns))
    | none =>
      if s.atQuota o then (s, .quota)
      else if 24 ≤ s.queue.length then (s.dropTrigger e o, .full)
      else (s.append e o, .admitted s.arrival)
  else (s, .notAdmitted)

/-- The triggers of one event, in the order of the list (R37, R48). -/
def State.triggerAll (s : State) (es : List EntryId) (o : Origin) : State :=
  es.foldl (fun s e => (s.trigger e o).1) s

/-- The entries in a scope whose trigger field is `tr`, in ascending index (R28, R33). -/
def State.selected (s : State) (tr : Trigger) : List EntryId :=
  (List.finRange 32).filter fun e => (s.entry e).state.inScope && (s.entry e).contents.trigger == tr

/-! ### Dispatch and the Arbiter (section 3.4, R65) -/

/-- The copy taken at a dispatch (R65). -/
def copyOf (e : EntryId) (x : Entry) (sc : Scope) (position : Nat) : Copy :=
  { entry := e, pos := x.contents.pos, neg := x.contents.neg, gain := x.contents.gain, settle := x.contents.settle,
    avg := x.contents.avg, dest := x.contents.dest, link := x.contents.link, notice := x.contents.notice,
    revision := x.revision, scope := sc, position := position }

/-- The counts to the end of `periods` conversion-clock periods that begin now (R69, R70, R81, R86). -/
def workLeft (active : ClockSetting) (periods : Nat) : Option Nat := some (periods * clockPeriod active)

/-- The conversion of entry `e` begins (R65, R69). -/
def State.begin (s : State) (e : EntryId) (sc : Scope) (position : Nat) : State :=
  { s with
    converter := .settling (copyOf e (s.entry e) sc position)
    work := workLeft s.clock.active (settlePeriods (copyOf e (s.entry e) sc position)) }

/-- The Arbiter's choice: the highest effective class, and among equals the ticket standing earliest (R57). -/
def choose (aging : BitVec 8) (now : Time) : List Ticket → Option Ticket
  | [] => none
  | t :: ts =>
    match choose aging now ts with
    | none => some t
    | some u => if effectiveClass aging now t < effectiveClass aging now u then some u else some t

/-- A chosen ticket is dispatched (R60). Its entry is always in a scope (R21); were it not, nothing would be dispatched
(notes/assumptions/15.md). -/
def State.dispatch (s : State) (t : Ticket) : State :=
  match (s.entry t.entry).state with
  | .scoped sc => (s.dropTicket t.entry).begin t.entry sc 1
  | .free => s
  | .reserved => s

/-- The Arbiter is consulted (R55). -/
def State.consult (s : State) : State :=
  match s.converter with
  | .idle =>
    match choose s.aging s.timebase s.queue with
    | some t => s.dispatch t
    | none => s
  | .calibrating => s
  | .settling _ => s
  | .sampling _ _ _ _ => s
  | .held => s

/-! ### Frames and answers (Chapter 10) -/

/-- The status and data an owning block answers (R173). -/
structure Answer where
  status : Status
  data : List Byte
  deriving DecidableEq, Repr

/-- An answer without data. -/
def Answer.bare (st : Status) : Answer := ⟨st, []⟩

/-- A frame ending at port `p` is judged: no reset is held, and none abandoned the frame (R186). -/
def State.judges (s : State) (p : Port) : Bool := !s.resetHeld && (s.port p).frame != .abandoned

/-- The frame of port `p` ends and is judged; the 2 µs of R175 count from here. -/
def State.endFrame (s : State) (p : Port) : State := s.setPort p { s.port p with frame := .idle, gap := 0 }

/-- A frame that is not judged ends (R186). -/
def State.dropFrame (s : State) (p : Port) : State := s.setPort p { s.port p with frame := .idle }

/-- A record is placed in the response slot of port `p` (R172). -/
def State.place (s : State) (p : Port) (r : Response) : State := s.setPort p { s.port p with slot := r }

/-- A deadline `n` µs from the present timebase value, modulo 2³². -/
def State.after (s : State) (n : Nat) : Time := s.timebase + BitVec.ofNat 32 n

/-- The restart of the session timer by a taken frame (R179). -/
def State.restart (s : State) (p : Port) : State :=
  if (s.port p).attached && (s.port p).timeout != 0 then
    s.setPort p { s.port p with deadline := some (s.after ((s.port p).timeout.toNat * 10000)) }
  else s

/-- A taken frame of a command other than FETCH: the owning block acts and answers, the answer is placed with the frame's
tag and code, and the session timer restarts (R172, R173, R179). -/
def State.answer (s : State) (p : Port) (tag code : Byte) (block : State → State × Answer) : State :=
  if s.judges p then
    (((block (s.endFrame p)).1.place p
      ⟨tag, code, (block (s.endFrame p)).2.status, (block (s.endFrame p)).2.data⟩).restart p)
  else s.dropFrame p

/-- The Port Link's check of the session state: a detached port is answered NOT_ATTACHED (R173). -/
def ifAttached (p : Port) (block : State → State × Answer) (s : State) : State × Answer :=
  if (s.port p).attached then block s else (s, .bare .notAttached)

/-- A taken frame of a command that needs an attached port (R173, R176). -/
def State.answerAttached (s : State) (p : Port) (tag code : Byte) (block : State → State × Answer) : State :=
  s.answer p tag code (ifAttached p block)

/-- An event that comes about only while no reset is held (R83, R186). -/
def State.unlessHeld (s : State) (f : State → State) : State := if s.resetHeld then s else f s

end Sys2Proof.Machine
end

