-- ==== Sys2Proof/Machine/Format.lean ====
section
/-! DEFINITION. The records the part returns, byte for byte (Chapter 11, R172, R188, R189). -/

namespace Sys2Proof.Machine

/-! ### Response record and SDOx (R168, R170, R172) -/

/-- The bytes of a response record: tag, echo, status, data length, data, CRC. -/
def Response.bytes (r : Response) : List Byte :=
  let head := [r.tag, r.echo, statusByte r.status, byteOf r.data.length] ++ r.data
  head ++ [crc8 head]

/-- The record a frame carries when it begins too early (R175). -/
def Response.notReady : Response := ⟨0, 0, .notReady, []⟩

/-- The EXPIRED marker (R172). -/
def Response.expiredMarker (number : BitVec 8) : Response := ⟨0, 0, .expired, [number]⟩

/-- The byte of a frame error's cause (11 section 11.3). -/
def frameCauseByte : FrameCause → Byte
  | .length => 1
  | .crc => 2
  | .unknown => 3

/-- The FRAME_ERROR record (R171). -/
def Response.frameErrorRecord (cause : FrameCause) (tag echo : Byte) : Response :=
  ⟨tag, echo, .frameError, [frameCauseByte cause]⟩

/-- Byte `n` that SDOx of port `p` shifts out in the frame in progress: the record's, then 0xFF; none while the output is
at high impedance (R168, R172, R186). In a frame that began while the reset was held it stays so after the release, to the
frame's end: a choice of the model (notes/assumptions/24.md). -/
def State.sdo (s : State) (p : Port) (n : Nat) : Option Byte :=
  match (s.port p).frame with
  | .shifting r => some (r.bytes.getD n 0xFF)
  | .idle => none
  | .abandoned => none

/-! ### Entries, monitors and slots -/

/-- Entry record, 16 bytes (11 section 11.4). -/
def entryRecord (x : Entry) : List Byte :=
  contentsBytes x.contents ++
    [itemStateByte x.state, ownerByte x.state, x.revision, x.overruns, x.drops, flagByte x.overrunPending]

/-- Monitor record, 19 bytes (11 section 11.4). -/
def monitorRecord (x : Monitor) : List Byte :=
  monitorContentsBytes x.contents ++
    [itemStateByte x.state, ownerByte x.state, x.revision, acceptedZoneByte x.zone, candidateZoneByte x.candidate,
      byteOf (candidateCount x.candidate)] ++ be16 x.crossings

/-- Slot record, 11 bytes (11 section 11.5). -/
def slotBytes (r : SlotRecord) : List Byte :=
  be16 r.value ++ be16 r.sequence ++ be32 r.timestamp ++ [indexByte r.source, r.revision, slotFlags r]

/-- The data of a chunk: first slot index, records remaining, and the records (R108). -/
def chunkData (chunk : List (SlotId × SlotRecord)) (remaining : Nat) : List Byte :=
  match chunk with
  | [] => []
  | c :: _ => [indexByte c.1, byteOf remaining] ++ chunk.flatMap fun x => slotBytes x.2

/-! ### Event records (11 section 11.7, R189) -/

/-- The kind bits of an event record. -/
def kindCode : NoticeKind → Nat
  | .completion => 0
  | .monitor => 1
  | .dropped => 2
  | .discarded => 3
  | .proposal => 4
  | .clock => 5
  | .peer => 6
  | .overflow => 7

/-- The code of a MONITOR record. -/
def monitorDetailCode : MonitorDetail → Nat
  | .zone .below => 1
  | .zone .inside => 2
  | .zone .above => 3
  | .retargeted => 4

/-- The code of a DISCARDED record. -/
def discardCode : DiscardCause → Nat
  | .edited => 1
  | .released => 2
  | .chainBroken => 3

/-- The code of a PROPOSAL record. -/
def outcomeCode : ProposalOutcome → Nat
  | .opened => 0
  | .adopted => 1
  | .refused => 2
  | .expired => 3
  | .withdrawn => 4

/-- The code of a CLOCK record. -/
def switchCode : SwitchOutcome → Nat
  | .done => 0
  | .failed .lockTimeout => 1
  | .failed .noClock => 2
  | .failed .tooFast => 3

/-- The code of a PEER record. -/
def peerCode : PeerDetail → Nat
  | .attached => 0
  | .detached => 1
  | .expired => 2

/-- Bits 4 to 0 of an event record's first byte. -/
def noticeCode : Notice → Nat
  | .completion e _ _ _ => e.val
  | .monitor _ d _ => monitorDetailCode d
  | .dropped _ => 1
  | .discarded _ c => discardCode c
  | .proposal _ o _ => outcomeCode o
  | .clock _ o => switchCode o
  | .peer _ d _ => peerCode d
  | .overflow k => kindCode k

/-- The index byte of an event record. -/
def noticeIndex : Notice → Byte
  | .completion _ slot _ _ => indexByte slot
  | .monitor m _ _ => indexByte m
  | .dropped e => indexByte e
  | .discarded e _ => indexByte e
  | .proposal id _ _ => id
  | .clock c _ => clockModeByte c.mode
  | .peer p _ _ => portByte p
  | .overflow _ => 0

/-- The sequence word of an event record: that of the slot for COMPLETION, 0 otherwise. -/
def noticeSequence : Notice → BitVec 16
  | .completion _ _ sequence _ => sequence
  | .monitor _ _ _ => 0
  | .dropped _ => 0
  | .discarded _ _ => 0
  | .proposal _ _ _ => 0
  | .clock _ _ => 0
  | .peer _ _ _ => 0
  | .overflow _ => 0

/-- The value of an event record. -/
def noticeValue : Notice → BitVec 16
  | .completion _ _ _ value => value
  | .monitor _ _ value => value
  | .dropped _ => 0
  | .discarded _ _ => 0
  | .proposal _ _ author => (portByte author).setWidth 16
  | .clock c _ => BitVec.ofNat 16 (dividerCount c.divider)
  | .peer _ _ number => number.setWidth 16
  | .overflow _ => 0

/-- Event record, 11 bytes. -/
def eventBytes (r : EventRecord) : List Byte :=
  [byteOf (32 * kindCode r.notice.kind + noticeCode r.notice), noticeIndex r.notice, r.count] ++
    be16 (noticeSequence r.notice) ++ be32 r.stamp ++ be16 (noticeValue r.notice)

/-! ### Proposal, common settings, status -/

/-- Proposal record (11 section 11.5). -/
def proposalRecord (pr : Proposal) (now : Time) : List Byte :=
  [pr.id, portByte pr.author, subjectCode pr.subject] ++ subjectArgs pr.subject ++ be32 pr.deadline ++ be32 now ++
    [portSetByte pr.required, portSetByte pr.accepted]

/-- The seven bytes of a timer: period, run state, next expiry (0 while STOPPED). -/
def timerBytes (t : Timer) : List Byte :=
  be16 t.period ++
    match t.run with
    | .stopped => flagByte false :: be32 0
    | .running next => flagByte true :: be32 next

/-- The edge modes of the four pins in one byte: bits 1-0 TRG0 to bits 7-6 TRG3. -/
def pinModesByte (pins : Table Pin 4) : Byte :=
  edgeModeByte (pins.get 0).mode + 4 * edgeModeByte (pins.get 1).mode + 16 * edgeModeByte (pins.get 2).mode +
    64 * edgeModeByte (pins.get 3).mode

/-- The number whose bit `i` is set exactly for the items `i` of the list that are COMMON. -/
def commonBits : List ItemState → Nat
  | [] => 0
  | st :: rest => (if st = .shared then 1 else 0) + 2 * commonBits rest

/-- Common record, 42 bytes (11 section 11.5). -/
def commonRecord (s : State) : List Byte :=
  timerBytes (s.timer 0) ++ timerBytes (s.timer 1) ++ timerBytes (s.timer 2) ++ timerBytes (s.timer 3) ++
    [pinModesByte s.pins, clockModeByte s.clock.active.mode, dividerByte s.clock.active.divider,
      phaseByte s.clock.phase] ++ requestBytes s.clock.phase ++ [s.aging, s.window] ++
    be32 (BitVec.ofNat 32 (commonBits (s.entries.cells.map (·.state)))) ++
    be16 (BitVec.ofNat 16 (commonBits (s.monitors.cells.map (·.state))))

/-- Status record, 23 bytes, as the asking port `p` receives it (R184, 11 section 11.5). -/
def statusRecord (s : State) (p : Port) : List Byte :=
  [converterByte s.converter, clockModeByte s.clock.active.mode, dividerByte s.clock.active.divider,
    phaseByte s.clock.phase, byteOf s.queue.length,
    flagByte (s.port .a).attached, (s.port .a).number, flagByte (s.port .b).attached, (s.port .b).number,
    flagByte (s.port .c).attached, (s.port .c).number,
    flagByte s.proposal.isSome, (match s.proposal with | some pr => pr.id | none => 0), resetCauseByte s.resetCause] ++
    be32 s.timebase ++
    [byteOf (s.waiting p), byteOf (s.entryCount p), byteOf (s.monitorCount p), byteOf (s.port p).events.length,
      (s.port p).abandons]

/-- The remaining time of a session: 0xFFFFFFFF when the timeout is 0 (R183, 11 section 11.6). -/
def remainingTime (s : State) (p : Port) : BitVec 32 :=
  match (s.port p).deadline with
  | some d => d - s.timebase
  | none => 0xFFFFFFFF

end Sys2Proof.Machine
end

