-- ==== Sys2Proof/Machine/LimitMonitors.lean ====
section
/-! DEFINITION. The limit monitors (Chapter 7): validity, evaluation at a slot write, retargeting, and the meanings of
CLAIM_MONITOR, WRITE_MONITOR, READ_MONITOR and RELEASE_MONITOR. -/

namespace Sys2Proof.Machine

/-! ### Shared operations -/

/-- The target of an action is an entry of scope `sc` (R120 check 3). -/
def State.targetInScope (s : State) (sc : Scope) : MonitorAction → Bool
  | .notify => true
  | .notifyAndTrigger e => (s.entry e).state == .scoped sc

/-- The checks of R120 against the scope `sc` the monitor will have; none is INVALID. -/
def State.checkMonitor (s : State) (sc : Scope) (raw : RawMonitor) : Option MonitorContents :=
  match readMonitorContents raw with
  | some c => if c.low.toInt ≤ c.high.toInt ∧ s.targetInScope sc c.action then some c else none
  | none => none

/-- A monitor with new contents in a scope: revision raised, evaluation state UNKNOWN (R118, R122, R130). -/
def Monitor.install (x : Monitor) (st : ItemState) (c : MonitorContents) (crossings : BitVec 16) : Monitor :=
  { contents := c, state := st, revision := x.revision + 1, zone := none, candidate := none, crossings := crossings }

/-- A monitor returned to FREE with its revision raised (R117, R118). -/
def Monitor.release (x : Monitor) : Monitor := .free (x.revision + 1)

/-- The monitor `m`, if it targets entry `e`, loses the target; with `notices`, a MONITOR RETARGETED notice is raised to
its notice set (R129). -/
def State.retargetOne (e : EntryId) (notices : Bool) (s : State) (m : MonId) : State :=
  if (s.monitor m).state.inScope && (s.monitor m).contents.action == .notifyAndTrigger e then
    let s1 := s.setMonitor m { s.monitor m with contents := { (s.monitor m).contents with action := .notify } }
    if notices then
      s1.raise (.monitor m .retargeted (BitVec.ofNat 16 e.val)) (s.noticeSet (s.monitor m).state (·.monitor))
    else s1
  else s

/-- Every monitor that targets entry `e` is retargeted, in ascending index (R129). -/
def State.retarget (s : State) (e : EntryId) (notices : Bool) : State :=
  (List.finRange 12).foldl (State.retargetOne e notices) s

/-- What a crossing of monitor `m` from `old` to `new` raises (R128): the MONITOR notice, then the trigger. -/
def State.crossing (s : State) (m : MonId) (old new : Zone) (v : BitVec 16) : State :=
  if crossingMatches (s.monitor m).contents.edge old new then
    let s1 := s.raise (.monitor m (.zone new) v) (s.noticeSet (s.monitor m).state (·.monitor))
    match (s.monitor m).contents.action with
    | .notify => s1
    | .notifyAndTrigger e => (s1.trigger e (.monitor m)).1
  else s

/-- Monitor `m` evaluates the value `v` written into slot `i`, if it watches it (R125 to R128). -/
def State.evaluateOne (i : SlotId) (v : BitVec 16) (s : State) (m : MonId) : State :=
  if (s.monitor m).state.inScope && (s.monitor m).contents.slot == i then
    let s1 := s.setMonitor m (evaluate (s.monitor m) v.toInt).1
    match (evaluate (s.monitor m) v.toInt).2 with
    | some (old, new) => s1.crossing m old new v
    | none => s1
  else s

/-- Every monitor that watches slot `i` evaluates, in ascending index (R102, R125). -/
def State.evaluateAll (s : State) (i : SlotId) (v : BitVec 16) : State :=
  (List.finRange 12).foldl (State.evaluateOne i v) s

/-- Every monitor PRIVATE to port `p` returns to FREE, without notices (R131). -/
def State.freeMonitors (s : State) (p : Port) : State :=
  { s with monitors := s.monitors.map fun x => if x.state = .ownedBy p then x.release else x }

/-! ### Commands -/

/-- CLAIM_MONITOR at the Limit Monitors (R121). -/
def claimMonitorBlock (p : Port) (m : Byte) (s : State) : State × Answer :=
  match indexOf 12 m with
  | none => (s, .bare .invalid)
  | some m =>
    if (s.monitor m).state ≠ .free then (s, .bare .busy)
    else if 6 ≤ s.monitorCount p then (s, .bare .quota)
    else
      (s.setMonitor m ((s.monitor m).install (.ownedBy p) (s.monitor m).contents 0),
        ⟨.ok, [(s.monitor m).revision + 1]⟩)

/-- CLAIM_MONITOR. -/
def execClaimMonitor (p : Port) (tag m : Byte) (s : State) : Host.Outcome State Fault Refusal :=
  .next (s.answerAttached p tag 0x28 (claimMonitorBlock p m))

/-- WRITE_MONITOR at the Limit Monitors (R122). -/
def writeMonitorBlock (p : Port) (m : Byte) (contents : RawMonitor) (s : State) : State × Answer :=
  match indexOf 12 m with
  | none => (s, .bare .invalid)
  | some m =>
    if (s.monitor m).state ≠ .ownedBy p then (s, .bare .denied)
    else
      match s.checkMonitor (.own p) contents with
      | none => (s, .bare .invalid)
      | some c =>
        (s.setMonitor m ((s.monitor m).install (.ownedBy p) c (s.monitor m).crossings),
          ⟨.ok, [(s.monitor m).revision + 1]⟩)

/-- WRITE_MONITOR. -/
def execWriteMonitor (p : Port) (tag m : Byte) (contents : RawMonitor) (s : State) :
    Host.Outcome State Fault Refusal :=
  .next (s.answerAttached p tag 0x29 (writeMonitorBlock p m contents))

/-- READ_MONITOR at the Limit Monitors (R123). -/
def readMonitorBlock (m : Byte) (s : State) : State × Answer :=
  match indexOf 12 m with
  | none => (s, .bare .invalid)
  | some m => (s, ⟨.ok, monitorRecord (s.monitor m)⟩)

/-- READ_MONITOR. -/
def execReadMonitor (p : Port) (tag m : Byte) (s : State) : Host.Outcome State Fault Refusal :=
  .next (s.answerAttached p tag 0x2A (readMonitorBlock m))

/-- RELEASE_MONITOR at the Limit Monitors (R124). -/
def releaseMonitorBlock (p : Port) (m : Byte) (s : State) : State × Answer :=
  match indexOf 12 m with
  | none => (s, .bare .invalid)
  | some m =>
    if (s.monitor m).state ≠ .ownedBy p then (s, .bare .denied)
    else (s.setMonitor m (s.monitor m).release, ⟨.ok, [(s.monitor m).revision + 1]⟩)

/-- RELEASE_MONITOR. -/
def execReleaseMonitor (p : Port) (tag m : Byte) (s : State) : Host.Outcome State Fault Refusal :=
  .next (s.answerAttached p tag 0x2B (releaseMonitorBlock p m))

end Sys2Proof.Machine
end

