-- ==== Sys2Proof/Machine/SamplingClock.lean ====
section
/-! DEFINITION. The Sampling Clock (Chapter 5): the stages of a clock switch, the runs of CLKIN, and the meanings of LOCK_REPORT,
QUALIFICATION and ACQUISITION_DEADLINE_EXPIRY. -/

namespace Sys2Proof.Machine

/-- The loop after a successful switch to `mode`: stopped when it is locked and no longer the source (R93 step 1). -/
def loopAfter (l : Loop) (mode : ClockMode) : Loop :=
  match mode, l with
  | .multiplied, l => l
  | .internal, .locked => .stopped
  | .external, .locked => .stopped
  | .internal, l => l
  | .external, l => l

/-- The clock after a successful switch (R93 steps 1 and 2). -/
def Clock.succeed (c : Clock) (r : ClockSetting) : Clock :=
  { active := r, phase := .none, deadline := none,
    measured := if r.mode = .external then c.measured else none,
    loop := loopAfter c.loop r.mode,
    run := none }

/-- The successful end of a switch (R93): the converter calibrates on the new clock, and CLOCK DONE is raised. -/
def State.switchDone (s : State) (r : ClockSetting) : State :=
  ({ s with
      clock := s.clock.succeed r
      converter := .calibrating
      work := workLeft r calibrationPeriods }).raise (.clock r .done) (s.subscribed (·.clock))

/-- The failed end of a switch (R94): the converter is IDLE, the Arbiter is consulted, and CLOCK FAILED is raised. -/
def State.switchFailed (s : State) (r : ClockSetting) (cause : SwitchCause) : State :=
  let s1 := { s with
    clock := { s.clock with phase := .none, deadline := none, run := none }, converter := .idle, work := none }
  s1.consult.raise (.clock r (.failed cause)) (s.subscribed (·.clock))

/-- The measured frequency held is too fast for divider `d`; a frequency is held whenever EXTERNAL is active
(notes/assumptions/15.md). -/
def Clock.measuredTooFast (c : Clock) (d : Divider) : Bool :=
  match c.measured with
  | some edges => tooFast edges d
  | none => false

/-- Acquisition begins: the course that the request and the active mode decide (R89). -/
def State.acquire (s : State) (r : ClockSetting) : State :=
  if r.mode = s.clock.active.mode then
    if r.mode = .external ∧ s.clock.measuredTooFast r.divider then s.switchFailed r .tooFast
    else s.switchDone r
  else
    match r.mode with
    | .internal => s.switchDone r
    | .multiplied => { s with clock := { s.clock with deadline := some (s.after 500), loop := .starting } }
    | .external => { s with clock := { s.clock with deadline := some (s.after 2000), run := none } }

/-- Draining ends: the converter is HELD, the phase becomes ACQUIRING, and acquisition begins (R88). -/
def State.endDraining (s : State) (r : ClockSetting) : State :=
  ({ s with converter := .held, work := none, clock := { s.clock with phase := .acquiring r } }).acquire r

/-- The converter's present work ends: it becomes HELD when draining is noted, and otherwise IDLE, which consults the
Arbiter (R75 step 3, R81, R82). -/
def State.workEnds (s : State) : State :=
  match s.clock.phase with
  | .draining r => s.endDraining r
  | .none => ({ s with converter := .idle, work := none }).consult
  | .acquiring _ => ({ s with converter := .idle, work := none }).consult

/-- Adoption of CLOCK_SET (R87): nothing when the request equals the active clock, and otherwise a switch begins; an IDLE
converter is HELD at once (R82). -/
def State.startSwitch (s : State) (r : ClockSetting) : State :=
  if r = s.clock.active then s
  else
    let s1 := { s with clock := { s.clock with phase := .draining r } }
    match s.converter with
    | .idle => s1.endDraining r
    | .calibrating => s1
    | .settling _ => s1
    | .sampling _ _ _ _ => s1
    | .held => s1

/-! ### CLKIN (R91) -/

/-- CLKIN is watched for a qualifying run: EXTERNAL is being acquired (R91). -/
def Clock.watching (c : Clock) : Bool :=
  match c.phase with
  | .acquiring r => r.mode == .external
  | .none => false
  | .draining _ => false

/-- The run that a rising edge of CLKIN begins (R91). -/
def ClkinRun.start : ClkinRun := { edges := 1, length := 0, since := 0 }

/-- The run after a rising edge of CLKIN (R91): the first edge begins one; a period of at least 25 ns goes on with it, and a
shorter one breaks it, with the run beginning anew at the edge that ends that period (notes/assumptions/16.md). -/
def ClkinRun.next : Option ClkinRun → ClkinRun
  | none => .start
  | some x => if 2 ≤ x.since then { x with edges := x.edges + 1, since := 0 } else .start

/-- A count passes in a run of CLKIN: more than 250 ns with no rising edge breaks it, and a broken run is forgotten (R91). -/
def ClkinRun.tick (x : ClkinRun) : Option ClkinRun :=
  if x.since < 20 then some { x with length := x.length + 1, since := x.since + 1 } else none

/-- A run has lasted 256 µs, 20480 counts (R91). -/
def ClkinRun.lasted (x : ClkinRun) : Bool := x.length == 20480

/-! ### Events -/

/-- LOCK_REPORT at the Sampling Clock (R90): it has an effect only while the loop is being acquired. -/
def lockReportEvent (s : State) : State :=
  match s.clock.phase, s.clock.loop with
  | .acquiring r, .starting => ({ s with clock := { s.clock with loop := .locked, deadline := none } }).switchDone r
  | .acquiring _, .stopped => s
  | .acquiring _, .locked => s
  | .none, _ => s
  | .draining _, _ => s

/-- LOCK_REPORT. -/
def execLockReport (s : State) : Host.Outcome State Fault Refusal := .next (s.unlessHeld lockReportEvent)

/-- The frequency check at qualification (R91, R92): the measured frequency is kept only when the switch succeeds. -/
def State.qualify (s : State) (r : ClockSetting) (edges : Nat) : State :=
  if tooFast edges r.divider then s.switchFailed r .tooFast
  else ({ s with clock := { s.clock with measured := some edges, deadline := none } }).switchDone r

/-- QUALIFICATION at the Sampling Clock: it comes about when EXTERNAL is being acquired and the run held, of `edges` rising
edges, has lasted 256 µs; they are the measured frequency (R91). -/
def qualificationEvent (edges : Nat) (s : State) : State :=
  match s.clock.phase, s.clock.run with
  | .acquiring r, some x => if r.mode = .external ∧ x.lasted ∧ x.edges = edges then s.qualify r edges else s
  | .acquiring _, none => s
  | .none, _ => s
  | .draining _, _ => s

/-- QUALIFICATION. -/
def execQualification (edges : Nat) (s : State) : Host.Outcome State Fault Refusal :=
  .next (s.unlessHeld (qualificationEvent edges))

/-- An acquisition that runs out of time (R90, R91): a starting loop is stopped, and the switch fails. -/
def State.acquisitionFails (s : State) (r : ClockSetting) : State :=
  match r.mode with
  | .multiplied => ({ s with clock := { s.clock with loop := .stopped } }).switchFailed r .lockTimeout
  | .external => s.switchFailed r .noClock
  | .internal => s

/-- ACQUISITION_DEADLINE_EXPIRY at the Sampling Clock: the timebase is at the acquisition deadline (R90, R91). -/
def acquisitionDeadlineEvent (s : State) : State :=
  match s.clock.phase with
  | .acquiring r => if s.clock.deadline = some s.timebase then s.acquisitionFails r else s
  | .none => s
  | .draining _ => s

/-- ACQUISITION_DEADLINE_EXPIRY. -/
def execAcquisitionDeadlineExpiry (s : State) : Host.Outcome State Fault Refusal :=
  .next (s.unlessHeld acquisitionDeadlineEvent)

end Sys2Proof.Machine
end

