-- ==== Sys2Proof/Machine/Converter.lean ====
section
/-! DEFINITION. The converter (Chapter 4) and its writes into the Result Store (sections 6.1 and 6.2): the meanings of
END_OF_SETTLING, END_OF_SAMPLE, COMPLETION and CALIBRATION_END. -/

namespace Sys2Proof.Machine

/-- The present work of the converter ends now: its periods are counted out (R69, R70, R73, R81, R86;
notes/assumptions/4.md). -/
def State.workDue (s : State) : Bool := s.work == some 0

/-! ### Settling and samples -/

/-- END_OF_SETTLING at the converter (R69). -/
def endOfSettlingEvent (s : State) : State :=
  match s.converter with
  | .settling c =>
    if s.workDue then
      { s with converter := .sampling c 0 0 false, work := workLeft s.clock.active samplePeriods }
    else s
  | .sampling _ _ _ _ => s
  | .calibrating => s
  | .idle => s
  | .held => s

/-- END_OF_SETTLING. -/
def execEndOfSettling (s : State) : Host.Outcome State Fault Refusal := .next (s.unlessHeld endOfSettlingEvent)

/-- END_OF_SAMPLE at the converter: a sample other than the last ends (R70). -/
def endOfSampleEvent (x : Analog) (s : State) : State :=
  match s.converter with
  | .sampling c taken sum full =>
    if s.workDue ∧ 0 < x.vref ∧ taken + 1 < avgCount c.avg then
      { s with
        converter := .sampling c (taken + 1) (sum + sampleCode s.calibration c x)
          (full || isFullScale c (sampleCode s.calibration c x))
        work := workLeft s.clock.active samplePeriods }
    else s
  | .settling _ => s
  | .calibrating => s
  | .idle => s
  | .held => s

/-- END_OF_SAMPLE. -/
def execEndOfSample (inputs : Analog) (s : State) : Host.Outcome State Fault Refusal :=
  .next (s.unlessHeld (endOfSampleEvent inputs))

/-! ### Completion -/

/-- The result of the copy is current: the entry's revision is the captured one (R74). -/
def State.isCurrent (s : State) (c : Copy) : Bool := (s.entry c.entry).revision == c.revision

/-- The slot record a completion writes (R99, R100). -/
def State.resultRecord (s : State) (c : Copy) (value : BitVec 16) (overrange : Bool) : SlotRecord :=
  { value := value
    sequence := (s.slotAt c.dest).sequence + 1
    timestamp := s.timebase
    source := c.entry
    revision := c.revision
    valid := true
    overrange := overrange
    overrun := s.isCurrent c && (s.entry c.entry).overrunPending
    retired := !s.isCurrent c }

/-- Step 1 of R102: the slot record is written, and a current result takes the entry's overrun pending (R7, R100). -/
def State.writeResult (s : State) (c : Copy) (value : BitVec 16) (overrange : Bool) : State :=
  let s1 := s.setSlot c.dest (s.resultRecord c value overrange)
  if s.isCurrent c then s1.setEntry c.entry { s.entry c.entry with overrunPending := false } else s1

/-- Step 2 of R102: the COMPLETION notice of a current result whose copy has notice ON (R74, R103). -/
def State.completionNotice (s : State) (c : Copy) (sequence value : BitVec 16) : State :=
  if s.isCurrent c && c.notice then
    s.raise (.completion c.entry c.dest sequence value) (s.noticeSet (s.entry c.entry).state (·.completion))
  else s

/-- The Result Store takes a result: write, notice, monitors (R102). -/
def State.deliver (s : State) (c : Copy) (value : BitVec 16) (overrange : Bool) : State :=
  let s1 := s.writeResult c value overrange
  let s2 := s1.completionNotice c (s.resultRecord c value overrange).sequence value
  s2.evaluateAll c.dest value

/-- A chain is broken before entry `l` (R77, R78). -/
def State.chainBroken (s : State) (l : EntryId) : State :=
  s.raise (.discarded l .chainBroken) (s.noticeSet (s.entry l).state (·.loss))

/-- Steps 2 and 3 of R75: the chain continues to the copy's link, or ends (R76 to R78). -/
def State.decideChain (s : State) (c : Copy) : State :=
  match c.link with
  | none => s.workEnds
  | some l =>
    if !s.isCurrent c then
      (if (s.entry l).state = .scoped c.scope then s.chainBroken l else s).workEnds
    else if (s.entry c.entry).contents.link = some l ∧ (s.entry l).state = .scoped c.scope then
      if 8 ≤ c.position then (s.chainBroken l).workEnds
      else s.begin l c.scope (c.position + 1)
    else s.workEnds

/-- The completion of a conversion (R74, R75). -/
def State.complete (s : State) (c : Copy) (sum : Int) (full : Bool) : State :=
  (s.deliver c (resultValue sum c.avg) full).decideChain c

/-- COMPLETION at the converter: the last sample ends (R70, R74). -/
def completionEvent (x : Analog) (s : State) : State :=
  match s.converter with
  | .sampling c taken sum full =>
    if s.workDue ∧ 0 < x.vref ∧ avgCount c.avg ≤ taken + 1 then
      s.complete c (sum + sampleCode s.calibration c x) (full || isFullScale c (sampleCode s.calibration c x))
    else s
  | .settling _ => s
  | .calibrating => s
  | .idle => s
  | .held => s

/-- COMPLETION. -/
def execCompletion (inputs : Analog) (s : State) : Host.Outcome State Fault Refusal :=
  .next (s.unlessHeld (completionEvent inputs))

/-! ### Calibration -/

/-- CALIBRATION_END at the converter: the offset and gain found are installed, and the converter is IDLE, or HELD when
draining is noted (R81, R82). -/
def calibrationEndEvent (found : Calibration) (s : State) : State :=
  match s.converter with
  | .calibrating => if s.workDue then ({ s with calibration := some found }).workEnds else s
  | .settling _ => s
  | .sampling _ _ _ _ => s
  | .idle => s
  | .held => s

/-- CALIBRATION_END. -/
def execCalibrationEnd (found : Calibration) (s : State) : Host.Outcome State Fault Refusal :=
  .next (s.unlessHeld (calibrationEndEvent found))

end Sys2Proof.Machine
end

