-- ==== Sys2Proof/Machine/DeviceReset.lean ====
section
/-! DEFINITION. The meanings of DEVICE_RESET and RESET_RELEASE (R23, R54, R83, R97, R112, R131, R147, R167, R186). -/

namespace Sys2Proof.Machine

/-- The cause recorded: a reset that begins during power-up, or is held across it, records POWER (R186). -/
def State.causeOf (s : State) (cause : ResetCause) : ResetCause :=
  if s.resetHeld ∧ s.resetCause = .power then .power else cause

/-- A frame in progress when a reset begins is abandoned (R186). -/
def FrameLine.abandon : FrameLine → FrameLine
  | .idle => .idle
  | .shifting _ => .abandoned
  | .abandoned => .abandoned

/-- A port in device reset (R186). -/
def PortState.inReset (x : PortState) (cause : ResetCause) : PortState :=
  { PortState.reset cause with frame := x.frame.abandon }

/-- Device reset: every block is at its reset state, and the reset is held until released. The commands that wait and the
model's own free-value counter stay (notes/assumptions/21.md). -/
def deviceResetEvent (cause : ResetCause) (s : State) : State :=
  { State.afterReset (s.causeOf cause) with
    ports := s.ports.mapIdx fun _ x => x.inReset (s.causeOf cause)
    resetHeld := true
    fresh := s.fresh
    pending := s.pending }

/-- DEVICE_RESET. -/
def execDeviceReset (cause : ResetCause) (s : State) : Host.Outcome State Fault Refusal :=
  .next (deviceResetEvent cause s)

/-- Reset release: the timebase is 0 and runs from here, the converter calibrates on the 8 MHz clock (R24, R83), and the
250 ns of the pins' initial levels are counted from here (R31). -/
def resetReleaseEvent (s : State) : State :=
  if s.resetHeld then
    { s with
      resetHeld := false, timebase := 0, sub := 0, converter := .calibrating, work := some 40960
      pins := s.pins.map fun x => { x with since := 0 } }
  else s

/-- RESET_RELEASE. -/
def execResetRelease (s : State) : Host.Outcome State Fault Refusal := .next (resetReleaseEvent s)

end Sys2Proof.Machine
end

