-- ==== Sys2Proof/Machine/DispatchQueue.lean ====
section
/-! DEFINITION. The meanings of REQUEST and CANCEL (R35, R47, R52). -/

namespace Sys2Proof.Machine

/-- The answer to a REQUEST of port `p` from the queue's decision, read in the state `s` after the command (R47). -/
def requestAnswer (s : State) (p : Port) : Admission → Answer
  | .notAdmitted => .bare .invalid
  | .coalesced number overruns => ⟨.coalesced, be16 number ++ [overruns]⟩
  | .quota => ⟨.quota, [byteOf (s.waiting p)]⟩
  | .full => ⟨.queueFull, [byteOf s.queue.length]⟩
  | .admitted number => ⟨.ok, be16 number ++ [byteOf s.queue.length]⟩

/-- A trigger of origin PORT `p` for `e`, decided, and then the Arbiter is consulted (R42, R48, R55). -/
def requestTrigger (p : Port) (e : EntryId) (s : State) : State × Answer :=
  let r := s.trigger e (.port p)
  (r.1.consult, requestAnswer (r.1.consult) p r.2)

/-- REQUEST at the Trigger Unit and the Dispatch Queue (R35). -/
def requestBlock (p : Port) (e : Byte) (s : State) : State × Answer :=
  match indexOf 32 e with
  | none => (s, .bare .invalid)
  | some e =>
    match (s.entry e).state with
    | .free => (s, .bare .invalid)
    | .reserved => (s, .bare .invalid)
    | .scoped .common => requestTrigger p e s
    | .scoped (.own q) => if q = p then requestTrigger p e s else (s, .bare .denied)

/-- REQUEST. -/
def execRequest (p : Port) (tag e : Byte) (s : State) : Host.Outcome State Fault Refusal :=
  .next (s.answerAttached p tag 0x18 (requestBlock p e))

/-- CANCEL at the Dispatch Queue (R52). -/
def cancelBlock (p : Port) (e : Byte) (s : State) : State × Answer :=
  match indexOf 32 e with
  | none => (s, .bare .invalid)
  | some e =>
    if (s.entry e).state.inScope && (s.entry e).state != .shared && (s.entry e).state != .ownedBy p then
      (s, .bare .denied)
    else
      match s.ticketOf e with
      | none => (s, .bare .noData)
      | some t =>
        if (s.entry e).state = .shared ∧ t.origin ≠ .port p then (s, .bare .denied)
        else (s.dropTicket e, ⟨.ok, be16 t.number⟩)

/-- CANCEL. -/
def execCancel (p : Port) (tag e : Byte) (s : State) : Host.Outcome State Fault Refusal :=
  .next (s.answerAttached p tag 0x19 (cancelBlock p e))

end Sys2Proof.Machine
end

