-- ==== Sys2Proof/Machine/PlanTable.lean ====
section
/-! DEFINITION. The Plan Table (Chapter 1): validity of contents, the release procedure, and the meanings of CLAIM_ENTRY,
WRITE_ENTRY, READ_ENTRY and RELEASE_ENTRY. -/

namespace Sys2Proof.Machine

/-! ### Validity (section 1.4) -/

/-- Checks 2 and 3 of R8. -/
def EntryContents.inputsOk (c : EntryContents) : Bool :=
  match c.neg with
  | .ground => c.gain == .x1
  | .ain n =>
    match c.pos with
    | .ain k => k != n
    | .temp => false
    | .vmid => false
    | .zero => false

/-- The entries visited by following present links from `l`, at most `fuel` of them (R9, R10). -/
def State.chainFrom (s : State) : Nat → Option EntryId → List EntryId
  | 0, _ => []
  | _ + 1, none => []
  | fuel + 1, some e => e :: s.chainFrom fuel (s.entry e).contents.link

/-- The entries of scope `sc` whose present link names `e`. -/
def State.linkersOf (s : State) (sc : Scope) (e : EntryId) : List EntryId :=
  (List.finRange 32).filter fun x => (s.entry x).state == .scoped sc && (s.entry x).contents.link == some e

/-- The greatest number of a list, 0 for the empty list. -/
def maxOf (l : List Nat) : Nat := l.foldl max 0

/-- The backward count of R10: the longest path of present links of scope `sc` that arrives at `e`, not counting `e`. -/
def State.backwardCount (s : State) (sc : Scope) : Nat → EntryId → Nat
  | 0, _ => 0
  | fuel + 1, e => maxOf ((s.linkersOf sc e).map fun x => s.backwardCount sc fuel x + 1)

/-- The forward count of R10: `e`, its new link, and the present links from there. -/
def State.forwardCount (s : State) (link : Option EntryId) : Nat := (s.chainFrom 32 link).length + 1

/-- Check 1 of R9: the link is absent or names an entry of scope `sc`. -/
def State.linkInScope (s : State) (sc : Scope) : Option EntryId → Bool
  | none => true
  | some l => (s.entry l).state == .scoped sc

/-- The link checks of R9 for entry `e` in scope `sc`: scope, not itself, no loop, at most 8 entries. -/
def State.linkOk (s : State) (sc : Scope) (e : EntryId) (link : Option EntryId) : Bool :=
  s.linkInScope sc link && link != some e && !(s.chainFrom 32 link).contains e &&
    decide (s.forwardCount link + s.backwardCount sc 32 e ≤ 8)

/-- The content checks of R8, answered INVALID, then the link checks of R9, answered CHAIN_INVALID. -/
def State.checkContents (s : State) (sc : Scope) (e : EntryId) (raw : RawEntry) : Except Status EntryContents :=
  match readContents raw with
  | none => .error .invalid
  | some c =>
    if c.inputsOk then (if s.linkOk sc e c.link then .ok c else .error .chainInvalid) else .error .invalid

/-! ### Changes of an entry -/

/-- An entry with its counters zeroed (R6), in state `st` with contents `c` and its revision raised. -/
def Entry.install (x : Entry) (st : ItemState) (c : EntryContents) : Entry :=
  { contents := c, state := st, revision := x.revision + 1, overruns := 0, drops := 0, overrunPending := false }

/-- An entry with new contents, its counters kept and its revision raised (R12, R19). -/
def Entry.rewrite (x : Entry) (c : EntryContents) : Entry := { x with contents := c, revision := x.revision + 1 }

/-- An entry returned to FREE, its revision raised (R16 step 4). -/
def Entry.release (x : Entry) : Entry := .free (x.revision + 1)

/-- Automatic link removal: every entry of the state `st` (a scope) whose link names `e` has it made absent (R17). -/
def State.removeLinks (s : State) (e : EntryId) (st : ItemState) : State :=
  { s with
    entries := s.entries.map fun x =>
      if x.state = st ∧ x.contents.link = some e then { x with contents := { x.contents with link := none } } else x }

/-- The release procedure (R16): the ticket, the links, the monitors, and then the entry is FREE. -/
def State.leaveScope (s : State) (e : EntryId) (notices : Bool) : State :=
  let s1 := s.discardTicket e (if notices then some .released else none)
  let s2 := s1.removeLinks e (s.entry e).state
  let s3 := s2.retarget e notices
  s3.setEntry e (s.entry e).release

/-- Entry `e` leaves the scope of port `p`, if it is PRIVATE to it, without notices (R22). -/
def State.freeEntry (p : Port) (s : State) (e : EntryId) : State :=
  if (s.entry e).state = .ownedBy p then s.leaveScope e false else s

/-- Every entry PRIVATE to port `p` leaves its scope, in ascending index, without notices (R22). -/
def State.freeEntries (s : State) (p : Port) : State := (List.finRange 32).foldl (State.freeEntry p) s

/-! ### Commands -/

/-- CLAIM_ENTRY at the Plan Table (R11). -/
def claimEntryBlock (p : Port) (e : Byte) (s : State) : State × Answer :=
  match indexOf 32 e with
  | none => (s, .bare .invalid)
  | some e =>
    if (s.entry e).state ≠ .free then (s, .bare .busy)
    else if 16 ≤ s.entryCount p then (s, .bare .quota)
    else
      (s.setEntry e ((s.entry e).install (.ownedBy p) (s.entry e).contents), ⟨.ok, [(s.entry e).revision + 1]⟩)

/-- CLAIM_ENTRY. -/
def execClaimEntry (p : Port) (tag e : Byte) (s : State) : Host.Outcome State Fault Refusal :=
  .next (s.answerAttached p tag 0x10 (claimEntryBlock p e))

/-- WRITE_ENTRY at the Plan Table (R12), with its effect on the waiting ticket (R13). -/
def writeEntryBlock (p : Port) (e : Byte) (contents : RawEntry) (s : State) : State × Answer :=
  match indexOf 32 e with
  | none => (s, .bare .invalid)
  | some e =>
    if (s.entry e).state ≠ .ownedBy p then (s, .bare .denied)
    else
      match s.checkContents (.own p) e contents with
      | .error st => (s, .bare st)
      | .ok c =>
        ((s.discardTicket e (some .edited)).setEntry e ((s.entry e).rewrite c), ⟨.ok, [(s.entry e).revision + 1]⟩)

/-- WRITE_ENTRY. -/
def execWriteEntry (p : Port) (tag e : Byte) (contents : RawEntry) (s : State) : Host.Outcome State Fault Refusal :=
  .next (s.answerAttached p tag 0x11 (writeEntryBlock p e contents))

/-- READ_ENTRY at the Plan Table (R14). -/
def readEntryBlock (e : Byte) (s : State) : State × Answer :=
  match indexOf 32 e with
  | none => (s, .bare .invalid)
  | some e => (s, ⟨.ok, entryRecord (s.entry e)⟩)

/-- READ_ENTRY. -/
def execReadEntry (p : Port) (tag e : Byte) (s : State) : Host.Outcome State Fault Refusal :=
  .next (s.answerAttached p tag 0x12 (readEntryBlock e))

/-- RELEASE_ENTRY at the Plan Table (R15). -/
def releaseEntryBlock (p : Port) (e : Byte) (s : State) : State × Answer :=
  match indexOf 32 e with
  | none => (s, .bare .invalid)
  | some e =>
    if (s.entry e).state ≠ .ownedBy p then (s, .bare .denied)
    else (s.leaveScope e true, ⟨.ok, [(s.entry e).revision + 1]⟩)

/-- RELEASE_ENTRY. -/
def execReleaseEntry (p : Port) (tag e : Byte) (s : State) : Host.Outcome State Fault Refusal :=
  .next (s.answerAttached p tag 0x13 (releaseEntryBlock p e))

end Sys2Proof.Machine
end

