-- ==== Sys2Proof/Machine/Proposals.lean ====
section
/-! DEFINITION. The common settings and the Proposal Slot (Chapter 9): subject checks, installation and close, and the
meanings of PROPOSE, VOTE, WITHDRAW, READ_PROPOSAL, READ_COMMON and PROPOSAL_EXPIRY. -/

namespace Sys2Proof.Machine

/-! ### Subject checks (R151) -/

/-- The checks of ENTRY_SET: index, state, contents and links, with the entry counting as COMMON. -/
def State.readEntrySet (s : State) (e : Byte) (contents : RawEntry) : Except Status Subject :=
  match indexOf 32 e with
  | none => .error .invalid
  | some e =>
    if (s.entry e).state.proposable then (s.checkContents .common e contents).map (.entrySet e) else .error .invalid

/-- The checks of ENTRY_REMOVE. -/
def State.readEntryRemove (s : State) (e : Byte) : Except Status Subject :=
  match indexOf 32 e with
  | none => .error .invalid
  | some e => if (s.entry e).state = .shared then .ok (.entryRemove e) else .error .invalid

/-- The checks of MONITOR_SET, with the monitor counting as COMMON. -/
def State.readMonitorSet (s : State) (m : Byte) (contents : RawMonitor) : Except Status Subject :=
  match indexOf 12 m with
  | none => .error .invalid
  | some m =>
    if (s.monitor m).state.proposable then
      match s.checkMonitor .common contents with
      | none => .error .invalid
      | some c => .ok (.monitorSet m c)
    else .error .invalid

/-- The checks of MONITOR_REMOVE. -/
def State.readMonitorRemove (s : State) (m : Byte) : Except Status Subject :=
  match indexOf 12 m with
  | none => .error .invalid
  | some m => if (s.monitor m).state = .shared then .ok (.monitorRemove m) else .error .invalid

/-- The checks of TIMER_SET. -/
def readTimerSet (k : Byte) (period : BitVec 16) (run : Byte) : Except Status Subject :=
  match indexOf 4 k, readRun run with
  | some k, some run => if period = 0 then .error .invalid else .ok (.timerSet k period run)
  | _, _ => .error .invalid

/-- The checks of PIN_SET. -/
def readPinSet (k edge : Byte) : Except Status Subject :=
  match indexOf 4 k, readEdgeMode edge with
  | some k, some edge => .ok (.pinSet k edge)
  | _, _ => .error .invalid

/-- The checks of CLOCK_SET (R85). -/
def readClockSet (mode divider : Byte) : Except Status Subject :=
  match readClockSetting mode divider with
  | none => .error .invalid
  | some r => .ok (.clockSet r)

/-- The subject of a PROPOSE, or the answer of the first check of R151 that fails. -/
def State.readSubject (s : State) : RawSubject → Except Status Subject
  | .entrySet e contents => s.readEntrySet e contents
  | .entryRemove e => s.readEntryRemove e
  | .monitorSet m contents => s.readMonitorSet m contents
  | .monitorRemove m => s.readMonitorRemove m
  | .timerSet k period run => readTimerSet k period run
  | .pinSet k edge => readPinSet k edge
  | .clockSet mode divider => readClockSet mode divider
  | .agingSet period => .ok (.agingSet period)
  | .windowSet window => if window = 0 then .error .invalid else .ok (.windowSet window)

/-! ### Installation (R162) -/

/-- Installation of ENTRY_SET (R19, R154). The entry is never PRIVATE then (notes/assumptions/15.md). -/
def State.installEntry (s : State) (e : EntryId) (c : EntryContents) : State :=
  match (s.entry e).state with
  | .free => s.setEntry e ((s.entry e).install .shared c)
  | .reserved => s.setEntry e ((s.entry e).install .shared c)
  | .scoped .common => (s.discardTicket e (some .edited)).setEntry e ((s.entry e).rewrite c)
  | .scoped (.own _) => s

/-- Installation of MONITOR_SET (R130, R154). The monitor is never PRIVATE then (notes/assumptions/15.md). -/
def State.installMonitor (s : State) (m : MonId) (c : MonitorContents) : State :=
  match (s.monitor m).state with
  | .free => s.setMonitor m ((s.monitor m).install .shared c 0)
  | .reserved => s.setMonitor m ((s.monitor m).install .shared c 0)
  | .scoped .common => s.setMonitor m ((s.monitor m).install .shared c (s.monitor m).crossings)
  | .scoped (.own _) => s

/-- Installation of TIMER_SET (R27). -/
def State.installTimer (s : State) (k : TimerId) (period : BitVec 16) (run : Bool) : State :=
  s.setTimer k ⟨period, if run then .running (s.after (period.toNat * 100)) else .stopped⟩

/-- The installation of an adopted subject in its owning block (R162): R19, R20, R130, R27, R34, R87, R59, R163. -/
def State.install (s : State) : Subject → State
  | .entrySet e c => s.installEntry e c
  | .entryRemove e => s.leaveScope e true
  | .monitorSet m c => s.installMonitor m c
  | .monitorRemove m => s.setMonitor m (s.monitor m).release
  | .timerSet k period run => s.installTimer k period run
  | .pinSet k edge => s.setPin k { s.pin k with mode := edge }
  | .clockSet r => s.startSwitch r
  | .agingSet period => { s with aging := period }
  | .windowSet window => { s with window := window }

/-- A FREE subject becomes RESERVED at opening (R18, R130, R153 step 2). -/
def State.reserve (s : State) : Subject → State
  | .entrySet e _ => if (s.entry e).state = .free then s.setEntry e { s.entry e with state := .reserved } else s
  | .monitorSet m _ => if (s.monitor m).state = .free then s.setMonitor m { s.monitor m with state := .reserved } else s
  | .entryRemove _ => s
  | .monitorRemove _ => s
  | .timerSet _ _ _ => s
  | .pinSet _ _ => s
  | .clockSet _ => s
  | .agingSet _ => s
  | .windowSet _ => s

/-- A RESERVED subject returns to FREE at a close without adoption (R18, R130, R161 step 2). -/
def State.unreserve (s : State) : Subject → State
  | .entrySet e _ => if (s.entry e).state = .reserved then s.setEntry e { s.entry e with state := .free } else s
  | .monitorSet m _ => if (s.monitor m).state = .reserved then s.setMonitor m { s.monitor m with state := .free } else s
  | .entryRemove _ => s
  | .monitorRemove _ => s
  | .timerSet _ _ _ => s
  | .pinSet _ _ => s
  | .clockSet _ => s
  | .agingSet _ => s
  | .windowSet _ => s

/-! ### Votes and closes -/

/-- The set holds no port. -/
def noPort (x : PortSet) : Bool := !(x.a || x.b || x.c)

/-- The required voters that have not accepted. -/
def Proposal.outstanding (pr : Proposal) : Nat :=
  allPorts.countP fun p => pr.required.get p && !pr.accepted.get p

/-- The ports that a close is told to: the author and the required set (R135); only attached ones receive it. -/
def Proposal.parties (pr : Proposal) : PortSet := pr.required.set pr.author true

/-- The subject is installed at adoption, and a reservation is undone at any other close (R161 step 2). -/
def State.settle (s : State) (o : ProposalOutcome) (subject : Subject) : State :=
  match o with
  | .adopted => s.install subject
  | .refused => s.unreserve subject
  | .expired => s.unreserve subject
  | .withdrawn => s.unreserve subject
  | .opened => s

/-- The close of the open proposal `pr` (R161). The PROPOSAL record precedes those of the installation
(notes/assumptions/14.md). -/
def State.close (s : State) (pr : Proposal) (o : ProposalOutcome) : State :=
  (({ s with proposal := none }).raise (.proposal pr.id o pr.author) pr.parties).settle o pr.subject

/-- The proposal without voter `p` (R160). -/
def Proposal.without (pr : Proposal) (p : Port) : Proposal :=
  { pr with required := pr.required.set p false, accepted := pr.accepted.set p false }

/-- The Proposal Slot is told of the session end of port `p` (R159, R160, R181 step 7). -/
def State.partyLeaves (s : State) (p : Port) : State :=
  match s.proposal with
  | none => s
  | some pr =>
    if pr.author = p then s.close pr .withdrawn
    else if pr.required.get p then
      if (pr.without p).outstanding = 0 then s.close (pr.without p) .adopted
      else { s with proposal := some (pr.without p) }
    else s

/-! ### PROPOSE -/

/-- Step 2 of R152: a CLOCK_SET while a clock switch is in progress. -/
def State.switchBusy (s : State) : RawSubject → Bool
  | .clockSet _ _ => s.clock.phase != .none
  | .entrySet _ _ => false
  | .entryRemove _ => false
  | .monitorSet _ _ => false
  | .monitorRemove _ => false
  | .timerSet _ _ _ => false
  | .pinSet _ _ => false
  | .agingSet _ => false
  | .windowSet _ => false

/-- The ports attached now other than `p` (R153 step 1). -/
def State.votersFor (s : State) (p : Port) : PortSet := s.ports.mapIdx fun q x => x.attached && q != p

/-- The deadline of a proposal that opens now (R153). -/
def State.voteDeadline (s : State) : Time := s.after (s.window.toNat * 1000)

/-- The data of an OK answer to PROPOSE (11 section 11.2). -/
def proposeData (s : State) (o : ProposalOutcome) (required : PortSet) : List Byte :=
  [s.nextId, outcomeByte o, portSetByte required] ++ be32 s.voteDeadline

/-- A proposal opens (R153). -/
def State.openProposal (s : State) (p : Port) (subject : Subject) : State :=
  let pr : Proposal :=
    { id := s.nextId, author := p, subject := subject, deadline := s.voteDeadline, required := s.votersFor p,
      accepted := .fill false }
  (({ s with proposal := some pr, nextId := s.nextId + 1 }).reserve subject).raise (.proposal s.nextId .opened p)
    (s.votersFor p)

/-- A subject that passes its checks is adopted at once, when nobody votes, or opens (R153, R154). -/
def State.proposed (s : State) (p : Port) (subject : Subject) : State × Answer :=
  if noPort (s.votersFor p) then
    (({ s with nextId := s.nextId + 1 }).install subject, ⟨.ok, proposeData s .adopted (s.votersFor p)⟩)
  else (s.openProposal p subject, ⟨.ok, proposeData s .opened (s.votersFor p)⟩)

/-- PROPOSE at the Proposal Slot (R152). -/
def proposeBlock (p : Port) (raw : RawSubject) (s : State) : State × Answer :=
  match s.proposal with
  | some pr => (s, ⟨.busy, [pr.id]⟩)
  | none =>
    if s.switchBusy raw then (s, .bare .busy)
    else
      match s.readSubject raw with
      | .error st => (s, .bare st)
      | .ok subject => s.proposed p subject

/-- PROPOSE. -/
def execPropose (p : Port) (tag : Byte) (subject : RawSubject) (s : State) : Host.Outcome State Fault Refusal :=
  .next (s.answerAttached p tag 0x38 (proposeBlock p subject))

/-! ### VOTE and WITHDRAW -/

/-- The data of an OK answer to VOTE. -/
def voteData (pr : Proposal) (o : ProposalOutcome) : List Byte := [pr.id, outcomeByte o, byteOf pr.outstanding]

/-- The proposal with the acceptance of `p`. -/
def Proposal.acceptedBy (pr : Proposal) (p : Port) : Proposal := { pr with accepted := pr.accepted.set p true }

/-- A vote of a required voter that has not accepted (R155 steps 4 and 5). -/
def State.counted (s : State) (pr : Proposal) (p : Port) (accept : Bool) : State × Answer :=
  if accept then
    if (pr.acceptedBy p).outstanding = 0 then
      (s.close (pr.acceptedBy p) .adopted, ⟨.ok, voteData (pr.acceptedBy p) .adopted⟩)
    else ({ s with proposal := some (pr.acceptedBy p) }, ⟨.ok, voteData (pr.acceptedBy p) .opened⟩)
  else (s.close pr .refused, ⟨.ok, voteData pr .refused⟩)

/-- VOTE at the Proposal Slot (R155); a choice byte not listed is INVALID first (R187). -/
def voteBlock (p : Port) (id choice : Byte) (s : State) : State × Answer :=
  match readChoice choice, s.proposal with
  | none, _ => (s, .bare .invalid)
  | some _, none => (s, .bare .noProposal)
  | some accept, some pr =>
    if pr.id ≠ id then (s, .bare .noProposal)
    else if pr.required.get p = false then (s, .bare .denied)
    else if pr.accepted.get p then (s, .bare .already)
    else s.counted pr p accept

/-- VOTE. -/
def execVote (p : Port) (tag id choice : Byte) (s : State) : Host.Outcome State Fault Refusal :=
  .next (s.answerAttached p tag 0x39 (voteBlock p id choice))

/-- WITHDRAW at the Proposal Slot (R157). -/
def withdrawBlock (p : Port) (id : Byte) (s : State) : State × Answer :=
  match s.proposal with
  | none => (s, .bare .noProposal)
  | some pr =>
    if pr.id ≠ id then (s, .bare .noProposal)
    else if pr.author ≠ p then (s, .bare .denied)
    else (s.close pr .withdrawn, ⟨.ok, [pr.id]⟩)

/-- WITHDRAW. -/
def execWithdraw (p : Port) (tag id : Byte) (s : State) : Host.Outcome State Fault Refusal :=
  .next (s.answerAttached p tag 0x3A (withdrawBlock p id))

/-! ### Reads -/

/-- READ_PROPOSAL at the Proposal Slot (R164). -/
def readProposalBlock (s : State) : State × Answer :=
  match s.proposal with
  | none => (s, .bare .noData)
  | some pr => (s, ⟨.ok, proposalRecord pr s.timebase⟩)

/-- READ_PROPOSAL. -/
def execReadProposal (p : Port) (tag : Byte) (s : State) : Host.Outcome State Fault Refusal :=
  .next (s.answerAttached p tag 0x3B readProposalBlock)

/-- READ_COMMON at the common settings (R149). -/
def readCommonBlock (s : State) : State × Answer := (s, ⟨.ok, commonRecord s⟩)

/-- READ_COMMON. -/
def execReadCommon (p : Port) (tag : Byte) (s : State) : Host.Outcome State Fault Refusal :=
  .next (s.answerAttached p tag 0x3C readCommonBlock)

/-! ### Expiry -/

/-- PROPOSAL_EXPIRY at the Proposal Slot: the timebase is at the deadline of the open proposal (R158). -/
def proposalExpiryEvent (s : State) : State :=
  match s.proposal with
  | none => s
  | some pr => if pr.deadline = s.timebase then s.close pr .expired else s

/-- PROPOSAL_EXPIRY. -/
def execProposalExpiry (s : State) : Host.Outcome State Fault Refusal := .next (s.unlessHeld proposalExpiryEvent)

end Sys2Proof.Machine
end

