-- ==== Sys2Proof/Machine/PortLink.lean ====
section
/-! DEFINITION. The Port Link (Chapter 10): sessions and the response slot, and the meanings of FETCH, ATTACH, DETACH,
SUBSCRIBE, READ_STATUS, RESTATE, TAKE_EVENTS, FRAME_ERROR, FRAME_START and SESSION_EXPIRY. -/

namespace Sys2Proof.Machine

/-! ### Session end (R181) -/

/-- A port whose session ends (R181 steps 1 to 3). -/
def PortState.leave (x : PortState) : PortState :=
  { x with attached := false, timeout := 0, deadline := none, subs := .empty, events := [], snapshot := [],
           abandons := 0 }

/-- The private items of port `p` are freed, monitors first (R181 steps 4 and 5). -/
def State.freeItems (s : State) (p : Port) : State := (s.freeMonitors p).freeEntries p

/-- A change of session state is told to the other ports that subscribe to PEER (R182). -/
def State.tellPeers (s : State) (p : Port) (detail : PeerDetail) (number : BitVec 8) : State :=
  s.raise (.peer p detail number) (portsBut p (s.subscribed (·.peer)))

/-- The session end of port `p`, by DETACH or by expiry (R181). -/
def State.endSession (s : State) (p : Port) (detail : PeerDetail) : State :=
  (((s.setPort p (s.port p).leave).freeItems p).tellPeers p detail (s.port p).number).partyLeaves p

/-! ### FETCH, ATTACH, DETACH -/

/-- FETCH (R174): the slot is left, and an attached port's session timer restarts. -/
def State.fetch (s : State) (p : Port) : State :=
  if s.judges p then (s.endFrame p).restart p else s.dropFrame p

/-- FETCH. Its tag is not stored. -/
def execFetch (p : Port) (_tag : Byte) (s : State) : Host.Outcome State Fault Refusal := .next (s.fetch p)

/-- A session opens (R177 steps 1 to 3). -/
def State.openSession (s : State) (p : Port) (timeout : Byte) (subs : Subscriptions) : State :=
  s.setPort p { s.port p with
    attached := true, number := (s.port p).number + 1, timeout := timeout, subs := subs, events := [],
    snapshot := [], abandons := 0,
    deadline := if timeout = 0 then none else some (s.after (timeout.toNat * 10000)) }

/-- ATTACH at the Port Link (R177). -/
def attachBlock (p : Port) (timeout subs : Byte) (s : State) : State × Answer :=
  if (s.port p).attached then (s, ⟨.already, [(s.port p).number]⟩)
  else
    match readSubs subs with
    | none => (s, .bare .invalid)
    | some set =>
      ((s.openSession p timeout set).tellPeers p .attached ((s.port p).number + 1), ⟨.ok, [(s.port p).number + 1]⟩)

/-- ATTACH. -/
def execAttach (p : Port) (tag timeout subs : Byte) (s : State) : Host.Outcome State Fault Refusal :=
  .next (s.answer p tag 0x01 (attachBlock p timeout subs))

/-- DETACH at the Port Link (R178). -/
def detachBlock (p : Port) (s : State) : State × Answer := (s.endSession p .detached, .bare .ok)

/-- DETACH. -/
def execDetach (p : Port) (tag : Byte) (s : State) : Host.Outcome State Fault Refusal :=
  .next (s.answerAttached p tag 0x02 (detachBlock p))

/-! ### Event Queues: SUBSCRIBE and TAKE_EVENTS (Chapter 8) -/

/-- SUBSCRIBE at the Event Queues (R136). -/
def subscribeBlock (p : Port) (subs : Byte) (s : State) : State × Answer :=
  match readSubs subs with
  | none => (s, .bare .invalid)
  | some set => (s.setPort p { s.port p with subs := set }, ⟨.ok, [subsByte set]⟩)

/-- SUBSCRIBE. -/
def execSubscribe (p : Port) (tag subs : Byte) (s : State) : Host.Outcome State Fault Refusal :=
  .next (s.answerAttached p tag 0x03 (subscribeBlock p subs))

/-- The data of a TAKE_EVENTS answer: records returned, records remaining, the records (R143, 11 section 11.7). -/
def takenData (events : List EventRecord) : List Byte :=
  [byteOf (events.take 4).length, byteOf (events.drop 4).length] ++ (events.take 4).flatMap eventBytes

/-- TAKE_EVENTS at the Event Queues (R143). -/
def takeEventsBlock (p : Port) (s : State) : State × Answer :=
  (s.setPort p { s.port p with events := (s.port p).events.drop 4 }, ⟨.ok, takenData (s.port p).events⟩)

/-- TAKE_EVENTS. -/
def execTakeEvents (p : Port) (tag : Byte) (s : State) : Host.Outcome State Fault Refusal :=
  .next (s.answerAttached p tag 0x30 (takeEventsBlock p))

/-! ### READ_STATUS and RESTATE -/

/-- READ_STATUS at the Port Link (R184), from an attached or a detached port. -/
def readStatusBlock (p : Port) (s : State) : State × Answer := (s, ⟨.ok, statusRecord s p⟩)

/-- READ_STATUS. -/
def execReadStatus (p : Port) (tag : Byte) (s : State) : Host.Outcome State Fault Refusal :=
  .next (s.answer p tag 0x04 (readStatusBlock p))

/-- RESTATE at the Port Link (R183); the remaining time is read before the frame restarts the timer. -/
def restateBlock (p : Port) (s : State) : State × Answer :=
  (s, ⟨.ok, [(s.port p).number, (s.port p).timeout] ++ be32 (remainingTime s p) ++ [subsByte (s.port p).subs]⟩)

/-- RESTATE. -/
def execRestate (p : Port) (tag : Byte) (s : State) : Host.Outcome State Fault Refusal :=
  .next (s.answerAttached p tag 0x05 (restateBlock p))

/-! ### Frame errors, frame starts and the session timer -/

/-- A frame that fails a check of R171 ends: the slot takes a FRAME_ERROR record, and the session timer is left. A frame
that passes every check is no frame error, and changes nothing here (notes/assumptions/17.md). -/
def State.judgeError (s : State) (p : Port) (frame : RawFrame) : State :=
  match decodeFrame p frame with
  | .error cause tag echo => (s.endFrame p).place p (.frameErrorRecord cause tag echo)
  | .taken _ => s

/-- FRAME_ERROR (R171). -/
def execFrameError (p : Port) (frame : RawFrame) (s : State) : Host.Outcome State Fault Refusal :=
  .next (if s.judges p then s.judgeError p frame else s.dropFrame p)

/-- The record that a frame beginning now on port `p` shifts out (R168, R175). -/
def State.outputOf (s : State) (p : Port) : Response := if (s.port p).gap < 160 then .notReady else (s.port p).slot

/-- A frame begins at a port whose select line is high (R168); while the reset is held it will not be judged (R186), and
SDOx stays at high impedance to its end (a choice of the model, notes/assumptions/24.md). -/
def frameStartEvent (p : Port) (s : State) : State :=
  match (s.port p).frame with
  | .idle => s.setPort p { s.port p with frame := if s.resetHeld then .abandoned else .shifting (s.outputOf p) }
  | .shifting _ => s
  | .abandoned => s

/-- FRAME_START. -/
def execFrameStart (p : Port) (s : State) : Host.Outcome State Fault Refusal := .next (frameStartEvent p s)

/-- The session of port `p` expires (R180): session end, and the EXPIRED marker in the slot. -/
def State.expireSession (s : State) (p : Port) : State :=
  (s.endSession p .expired).place p (.expiredMarker (s.port p).number)

/-- SESSION_EXPIRY at the Port Link: the timebase is at the session deadline of an attached port (R180). -/
def sessionExpiryEvent (p : Port) (s : State) : State :=
  if (s.port p).attached ∧ (s.port p).deadline = some s.timebase then s.expireSession p else s

/-- SESSION_EXPIRY. -/
def execSessionExpiry (p : Port) (s : State) : Host.Outcome State Fault Refusal :=
  .next (s.unlessHeld (sessionExpiryEvent p))

end Sys2Proof.Machine
end

