-- ==== Sys2Proof/Machine/ResultStore.lean ====
section
/-! DEFINITION. Snapshot reads (section 6.3): the meanings of READ_SLOTS and CONTINUE. -/

namespace Sys2Proof.Machine

/-- The records of the `count` slots from `first` upward, as they stand (R108 step 2). -/
def State.capture (s : State) (first count : Nat) : List (SlotId × SlotRecord) :=
  ((List.finRange 64).filter fun i => decide (first ≤ i.val) && decide (i.val < first + count)).map fun i =>
    (i, s.slotAt i)

/-- Up to 4 records leave a snapshot buffer and form the answer (R108 step 3, R109). -/
def chunkAnswer (buffer : List (SlotId × SlotRecord)) : Answer :=
  ⟨.ok, chunkData (buffer.take 4) (buffer.drop 4).length⟩

/-- READ_SLOTS at the Result Store (R107, R108, R110). -/
def readSlotsBlock (p : Port) (first count : Byte) (s : State) : State × Answer :=
  if 1 ≤ count.toNat ∧ count.toNat ≤ 16 ∧ first.toNat ≤ 63 ∧ first.toNat + count.toNat - 1 ≤ 63 then
    let captured := s.capture first.toNat count.toNat
    (s.setPort p { s.port p with
        snapshot := captured.drop 4
        abandons := if (s.port p).snapshot.isEmpty then (s.port p).abandons else satInc (s.port p).abandons },
      chunkAnswer captured)
  else (s, .bare .invalid)

/-- READ_SLOTS. -/
def execReadSlots (p : Port) (tag first count : Byte) (s : State) : Host.Outcome State Fault Refusal :=
  .next (s.answerAttached p tag 0x20 (readSlotsBlock p first count))

/-- CONTINUE at the Result Store (R109). -/
def continueBlock (p : Port) (s : State) : State × Answer :=
  match (s.port p).snapshot with
  | [] => (s, .bare .noData)
  | r :: rest => (s.setPort p { s.port p with snapshot := (r :: rest).drop 4 }, chunkAnswer (r :: rest))

/-- CONTINUE. -/
def execContinueSlots (p : Port) (tag : Byte) (s : State) : Host.Outcome State Fault Refusal :=
  .next (s.answerAttached p tag 0x21 (continueBlock p))

end Sys2Proof.Machine
end

