-- ==== Sys2Proof/Machine/TriggerUnit.lean ====
section
/-! DEFINITION. The meanings of the Trigger Unit's events: TIMER_EXPIRY, PIN_EDGE and PIN_INITIAL_LEVEL (R28, R31 to R33). -/

namespace Sys2Proof.Machine

/-- The triggers of one expiry or edge, all decided before the Arbiter is consulted (R37, R48). -/
def State.fanOut (s : State) (tr : Trigger) (o : Origin) : State := (s.triggerAll (s.selected tr) o).consult

/-- A timer's expiry at the scheduled time `next`: the triggers, and the next expiry one period later (R28). -/
def State.expire (s : State) (k : TimerId) (next : Time) : State :=
  (s.setTimer k { s.timer k with
    run := .running (next + BitVec.ofNat 32 ((s.timer k).period.toNat * 100)) }).fanOut (.timer k) (.timer k)

/-- TIMER_EXPIRY at the Trigger Unit: it comes about when the timebase is at the timer's next expiry. -/
def timerExpiryEvent (k : TimerId) (s : State) : State :=
  match (s.timer k).run with
  | .running next => if next = s.timebase then s.expire k next else s
  | .stopped => s

/-- TIMER_EXPIRY. -/
def execTimerExpiry (k : TimerId) (s : State) : Host.Outcome State Fault Refusal :=
  .next (s.unlessHeld (timerExpiryEvent k))

/-- An edge to level `l` qualifies under an edge mode (R32, section 2.3). -/
def edgeQualifies (mode : EdgeMode) (l : Level) : Bool :=
  match mode with
  | .off => false
  | .rising => l == .high
  | .falling => l == .low
  | .both => true

/-- A level can have held on the pin for 250 ns: that long has passed since the pin was last known to stand otherwise, at
the acceptance of the recorded level, or since reset release (R31; notes/assumptions/19.md). -/
def Pin.held (x : Pin) : Bool := decide (20 ≤ x.since)

/-- The pin with level `l` recorded (R31). -/
def Pin.accept (x : Pin) (l : Level) : Pin := { x with level := some l, since := 0 }

/-- PIN_EDGE at the Trigger Unit: a level other than the recorded one that has held for 250 ns is accepted (R31) and judged
(R32, R33). Before the initial level is recorded there is no edge (notes/assumptions/19.md). -/
def pinEdgeEvent (k : PinId) (l : Level) (s : State) : State :=
  match (s.pin k).level with
  | none => s
  | some old =>
    if old = l ∨ (s.pin k).held = false then s
    else
      let s1 := s.setPin k ((s.pin k).accept l)
      if edgeQualifies (s.pin k).mode l then s1.fanOut (.pin k) (.pin k) else s1

/-- PIN_EDGE. -/
def execPinEdge (k : PinId) (level : Level) (s : State) : Host.Outcome State Fault Refusal :=
  .next (s.unlessHeld (pinEdgeEvent k level))

/-- PIN_INITIAL_LEVEL at the Trigger Unit: the first level that has held for 250 ns from reset release on is recorded,
without an edge (R31). -/
def pinInitialLevelEvent (k : PinId) (l : Level) (s : State) : State :=
  match (s.pin k).level with
  | none => if (s.pin k).held then s.setPin k ((s.pin k).accept l) else s
  | some _ => s

/-- PIN_INITIAL_LEVEL. -/
def execPinInitialLevel (k : PinId) (level : Level) (s : State) : Host.Outcome State Fault Refusal :=
  .next (s.unlessHeld (pinInitialLevelEvent k level))

end Sys2Proof.Machine
end

