-- ==== Sys2Proof/Machine/Dispatch.lean ====
section
/-! DEFINITION. The meaning of every command, one arm for each row of the table. -/

namespace Sys2Proof.Machine

def exec (i : Instr) (s : State) : Host.Outcome State Fault Refusal :=
  match i with
  | .fetch p tag => Sys2Proof.Machine.execFetch p tag s
  | .attach p tag timeout subs => Sys2Proof.Machine.execAttach p tag timeout subs s
  | .detach p tag => Sys2Proof.Machine.execDetach p tag s
  | .subscribe p tag subs => Sys2Proof.Machine.execSubscribe p tag subs s
  | .readStatus p tag => Sys2Proof.Machine.execReadStatus p tag s
  | .restate p tag => Sys2Proof.Machine.execRestate p tag s
  | .claimEntry p tag e => Sys2Proof.Machine.execClaimEntry p tag e s
  | .writeEntry p tag e contents => Sys2Proof.Machine.execWriteEntry p tag e contents s
  | .readEntry p tag e => Sys2Proof.Machine.execReadEntry p tag e s
  | .releaseEntry p tag e => Sys2Proof.Machine.execReleaseEntry p tag e s
  | .request p tag e => Sys2Proof.Machine.execRequest p tag e s
  | .cancel p tag e => Sys2Proof.Machine.execCancel p tag e s
  | .readSlots p tag first count => Sys2Proof.Machine.execReadSlots p tag first count s
  | .continueSlots p tag => Sys2Proof.Machine.execContinueSlots p tag s
  | .claimMonitor p tag m => Sys2Proof.Machine.execClaimMonitor p tag m s
  | .writeMonitor p tag m contents => Sys2Proof.Machine.execWriteMonitor p tag m contents s
  | .readMonitor p tag m => Sys2Proof.Machine.execReadMonitor p tag m s
  | .releaseMonitor p tag m => Sys2Proof.Machine.execReleaseMonitor p tag m s
  | .takeEvents p tag => Sys2Proof.Machine.execTakeEvents p tag s
  | .propose p tag subject => Sys2Proof.Machine.execPropose p tag subject s
  | .vote p tag id choice => Sys2Proof.Machine.execVote p tag id choice s
  | .withdraw p tag id => Sys2Proof.Machine.execWithdraw p tag id s
  | .readProposal p tag => Sys2Proof.Machine.execReadProposal p tag s
  | .readCommon p tag => Sys2Proof.Machine.execReadCommon p tag s
  | .frameError p frame => Sys2Proof.Machine.execFrameError p frame s
  | .sessionExpiry p => Sys2Proof.Machine.execSessionExpiry p s
  | .deviceReset cause => Sys2Proof.Machine.execDeviceReset cause s
  | .resetRelease => Sys2Proof.Machine.execResetRelease s
  | .pinInitialLevel k level => Sys2Proof.Machine.execPinInitialLevel k level s
  | .timerExpiry k => Sys2Proof.Machine.execTimerExpiry k s
  | .pinEdge k level => Sys2Proof.Machine.execPinEdge k level s
  | .endOfSettling => Sys2Proof.Machine.execEndOfSettling s
  | .endOfSample inputs => Sys2Proof.Machine.execEndOfSample inputs s
  | .completion inputs => Sys2Proof.Machine.execCompletion inputs s
  | .calibrationEnd found => Sys2Proof.Machine.execCalibrationEnd found s
  | .lockReport => Sys2Proof.Machine.execLockReport s
  | .qualification edges => Sys2Proof.Machine.execQualification edges s
  | .acquisitionDeadlineExpiry => Sys2Proof.Machine.execAcquisitionDeadlineExpiry s
  | .proposalExpiry => Sys2Proof.Machine.execProposalExpiry s
  | .frameStart p => Sys2Proof.Machine.execFrameStart p s

end Sys2Proof.Machine
end

