-- ==== Sys2Proof/Machine/Timebase.lean ====
section
/-! DEFINITION. What happens while no command waits: the events that the present timebase value makes due, and otherwise
the passing of one count of 12.5 ns (R24; notes/assumptions/1.md) or an edge of CLKIN (R86, R91). -/

namespace Sys2Proof.Machine

/-! ### The passing of time -/

/-- A count of 12.5 ns passes at a port: the gap after a frame grows to the 2 µs of R175 and stops there. -/
def PortState.tick (x : PortState) : PortState := { x with gap := min 160 (x.gap + 1) }

/-- A count passes at a trigger pin: the time since its last acceptance grows to the 250 ns of R31 and stops there. -/
def Pin.tick (x : Pin) : Pin := { x with since := min 20 (x.since + 1) }

/-- A count of 12.5 ns passes; every eightieth one advances the timebase (R24). The converter's work is counted unless CLKIN
counts it (R86). While the reset is held nothing counts (notes/assumptions/11.md). -/
def State.tick (s : State) : State :=
  if s.resetHeld then s
  else
    { s with
      sub := s.sub + 1
      timebase := if s.sub = 79 then s.timebase + 1 else s.timebase
      work := if s.clock.active.mode = .external then s.work else s.work.map (· - 1)
      clock := { s.clock with run := s.clock.run.bind ClkinRun.tick }
      pins := s.pins.map Pin.tick
      ports := s.ports.mapIdx fun _ x => x.tick }

/-- The part looks at CLKIN: it counts the converter's work (R86), or is watched (R91). -/
def State.onClkin (s : State) : Bool :=
  !s.resetHeld && (s.clock.active.mode == .external && s.work.isSome || s.clock.watching)

/-- A rising edge of CLKIN: on EXTERNAL one count of the converter's work (R86), and where CLKIN is watched one edge of the
run (R91). -/
def State.clkinEdge (s : State) : State :=
  { s with
    work := if s.clock.active.mode = .external then s.work.map (· - 1) else s.work
    clock := { s.clock with run := if s.clock.watching then some (.next s.clock.run) else s.clock.run } }

/-! ### What is due now -/

/-- The timer expiries that are due (R28). -/
def State.dueTimers (s : State) : List Instr :=
  ((List.finRange 4).filter fun k => (s.timer k).run == .running s.timebase).map .timerExpiry

/-- The session expiries that are due (R180). -/
def State.dueSessions (s : State) : List Instr :=
  (allPorts.filter fun p => (s.port p).attached && (s.port p).deadline == some s.timebase).map .sessionExpiry

/-- The proposal expiry that is due (R158). -/
def State.dueProposal (s : State) : List Instr :=
  match s.proposal with
  | some pr => if pr.deadline = s.timebase then [.proposalExpiry] else []
  | none => []

/-- The acquisition deadline expiry that is due (R90, R91). -/
def State.dueAcquisition (s : State) : List Instr :=
  match s.clock.phase with
  | .acquiring r =>
    if r.mode ≠ .internal ∧ s.clock.deadline = some s.timebase then [.acquisitionDeadlineExpiry] else []
  | .none => []
  | .draining _ => []

/-- The qualification that is due: the run has lasted 256 µs, and its rising edges are counted (R91). -/
def State.dueQualification (s : State) : List Instr :=
  match s.clock.run with
  | some x => if s.clock.watching && x.lasted then [.qualification x.edges] else []
  | none => []

/-- The voltages when a sample ends with no command queued: free, with the reference above ground
(notes/assumptions/7.md). -/
def State.freeAnalog (s : State) : Analog :=
  { Config.analogAt s.fresh with vref := (Config.analogAt s.fresh).vref + 1 }

/-- The end of the converter's present work, when the part's own clock has counted it out (R69, R70, R81). -/
def State.dueConverter (s : State) : List Instr :=
  if s.work = some 0 then
    match s.converter with
    | .settling _ => [.endOfSettling]
    | .sampling c taken _ _ =>
      if taken + 1 < avgCount c.avg then [.endOfSample s.freeAnalog] else [.completion s.freeAnalog]
    | .calibrating => [.calibrationEnd (Config.calibrationAt s.fresh)]
    | .idle => []
    | .held => []
  else []

/-- Every event that is due. -/
def State.dueEvents (s : State) : List Instr :=
  if s.resetHeld then []
  else s.dueTimers ++ s.dueSessions ++ s.dueProposal ++ s.dueAcquisition ++ s.dueQualification ++ s.dueConverter

/-- The event taken first; where several fall together the manual leaves the order open (notes/assumptions/2.md). -/
def State.nextDue (s : State) : Option Instr :=
  match s.dueEvents with
  | [] => none
  | [i] => some i
  | i :: rest => some ((i :: rest).getD (Config.dueFirst s.fresh % (i :: rest).length) i)

/-- The free values at the present count are spent (notes/assumptions/21.md). -/
def State.spendFresh (s : State) : State := { s with fresh := s.fresh + 1 }

/-! ### Nothing is due -/

/-- What happens with nothing due: time passes, or, where the part looks at CLKIN, a rising edge of CLKIN may come first. When CLKIN
rises is outside the part, so the choice is free (notes/assumptions/5.md); a CLKIN that stands still is one that never comes
(R86). -/
def State.elapse (s : State) : State :=
  if s.onClkin then
    if Config.clkinRises s.fresh then s.spendFresh.clkinEdge else s.spendFresh.tick
  else s.tick

end Sys2Proof.Machine
end

