-- ==== Sys2Proof/Machine/Step.lean ====
section
/-! DEFINITION. One step: the command at the front of the queue, or, when none waits, what the time does. -/

namespace Sys2Proof.Machine

/-- One step. The front command acts on the state with the queue's rest. With no command waiting, an event that is due is
taken; with none due, time passes or CLKIN rises (notes/assumptions/1.md, 5.md). -/
def step (s : State) : Host.Outcome State Fault Refusal :=
  match s.pending with
  | c :: rest => exec c { s with pending := rest }
  | [] =>
    match s.nextDue with
    | some c => exec c s.spendFresh
    | none => .next s.elapse

/-- The state with the command that a table word spells at the front of its queue; unchanged when it spells none. -/
def State.withFetchWord (s : State) (nbits w : Nat) : State :=
  match decodeTableWord nbits w with
  | some c => { s with pending := c :: s.pending }
  | none => s

end Sys2Proof.Machine
end

