-- ==== Sys2Proof/Safety.lean ====
section
/-! DEFINITION. The laws of the device: what the manual says holds at all times, as predicates on one state, and what a
safe step is. They are stated to be kept by every step in Certificates/Slice0/Obligations.lean. -/

namespace Sys2Proof.Machine

/-! ### The Dispatch Queue (R38, R39, R41, R55) -/

/-- At most 24 tickets, at most one for each entry, each for an entry in a scope and of that entry's class; at most 6 of
the REQUESTs of any port; none while the converter stands IDLE. -/
structure QueueLaw (s : State) : Prop where
  room : s.queue.length ≤ 24
  once : (s.queue.map (·.entry)).Nodup
  scope : ∀ t ∈ s.queue, (s.entry t.entry).state.inScope = true
  cls : ∀ t ∈ s.queue, t.cls = (s.entry t.entry).contents.cls
  quota : ∀ p, s.waiting p ≤ 6
  idle : s.converter = .idle → s.queue = []

/-! ### Ports (R106, R133, R139, R172, R175, R176) -/

/-- At most 15 records that are not OVERFLOW, an OVERFLOW record only at the end, and at most one untaken COMPLETION
record of each entry (R133, R139). -/
structure EventLaw (events : List EventRecord) : Prop where
  ordinary : (events.filter fun r => !r.isOverflow).length ≤ 15
  overflowLast : ∀ r ∈ events.dropLast, r.isOverflow = false
  completions : ∀ e, events.countP (EventRecord.isCompletionOf e) ≤ 1

/-- Slots in a row, each index one more than the one before. -/
def consecutive : List (SlotId × SlotRecord) → Prop
  | [] => True
  | [_] => True
  | a :: b :: rest => a.1.val + 1 = b.1.val ∧ consecutive (b :: rest)

/-- A port: what a detached one does not hold (R133, R106, R176), its deadline, its queue, its snapshot buffer, its
response slot and its gap. -/
structure PortLaw (x : PortState) : Prop where
  detached : x.attached = false → x.timeout = 0 ∧ x.deadline = none ∧ x.subs = .empty ∧ x.events = [] ∧
    x.snapshot = [] ∧ x.abandons = 0
  deadline : x.attached = true → (x.deadline = none ↔ x.timeout = 0)
  events : EventLaw x.events
  snapshot : x.snapshot.length ≤ 12 ∧ consecutive x.snapshot
  slot : x.slot.data.length ≤ 48
  gap : x.gap ≤ 160

/-- Every port is as PortLaw says. -/
def LinkPortsLaw (s : State) : Prop := ∀ p, PortLaw (s.port p)

/-! ### Ownership and defaults (R1, R3, R117, R119) -/

/-- A PRIVATE item is owned by an attached port; no port owns more than 16 entries or 6 monitors. -/
structure OwnerLaw (s : State) : Prop where
  entries : ∀ e p, (s.entry e).state = .ownedBy p → (s.port p).attached = true
  monitors : ∀ m p, (s.monitor m).state = .ownedBy p → (s.port p).attached = true
  entryQuota : ∀ p, s.entryCount p ≤ 16
  monitorQuota : ∀ p, s.monitorCount p ≤ 6

/-- An item out of every scope holds its defaults; a monitor's limits are in order, and its candidate is a zone other than
the accepted one, fewer times in a row than the persistence; and the limits an open MONITOR_SET would install are in
order. -/
structure ContentsLaw (s : State) : Prop where
  entry : ∀ e, (s.entry e).state.inScope = false →
    (s.entry e).contents = .default ∧ (s.entry e).overruns = 0 ∧ (s.entry e).drops = 0 ∧
      (s.entry e).overrunPending = false
  monitor : ∀ m, (s.monitor m).state.inScope = false →
    (s.monitor m).contents = .default ∧ (s.monitor m).zone = none ∧ (s.monitor m).candidate = none ∧
      (s.monitor m).crossings = 0
  limits : ∀ m, (s.monitor m).contents.low.toInt ≤ (s.monitor m).contents.high.toInt
  candidate : ∀ m z n, (s.monitor m).candidate = some (z, n) →
    (s.monitor m).zone ≠ none ∧ (s.monitor m).zone ≠ some z ∧ 1 ≤ n ∧
      n < persistCount (s.monitor m).contents.persist
  proposed : ∀ pr m c, s.proposal = some pr → pr.subject = .monitorSet m c → c.low.toInt ≤ c.high.toInt

/-! ### Proposals (R150, R162) -/

/-- The state an open proposal's subject is in. -/
def subjectStands (s : State) : Subject → Prop
  | .entrySet e _ => (s.entry e).state = .reserved ∨ (s.entry e).state = .shared
  | .entryRemove e => (s.entry e).state = .shared
  | .monitorSet m _ => (s.monitor m).state = .reserved ∨ (s.monitor m).state = .shared
  | .monitorRemove m => (s.monitor m).state = .shared
  | .timerSet _ period _ => period ≠ 0
  | .pinSet _ _ => True
  | .clockSet r => s.clock.phase = .none ∧ r ≠ ⟨.multiplied, .d1⟩
  | .agingSet _ => True
  | .windowSet window => window ≠ 0

/-- While a proposal is open, its author and its required voters are attached, the author is no voter, the accepted set is
part of the required set, someone is still to vote, and the subject stands as the checks left it; an item is RESERVED only
as the subject of the open proposal. -/
structure ProposalLaw (s : State) : Prop where
  author : ∀ pr, s.proposal = some pr → (s.port pr.author).attached = true ∧ pr.required.get pr.author = false
  voters : ∀ pr, s.proposal = some pr → ∀ p, pr.required.get p = true → (s.port p).attached = true
  accepted : ∀ pr, s.proposal = some pr → ∀ p, pr.accepted.get p = true → pr.required.get p = true
  waiting : ∀ pr, s.proposal = some pr → 0 < pr.outstanding
  subject : ∀ pr, s.proposal = some pr → subjectStands s pr.subject
  entries : ∀ e, (s.entry e).state = .reserved → ∃ pr c, s.proposal = some pr ∧ pr.subject = .entrySet e c
  monitors : ∀ m, (s.monitor m).state = .reserved → ∃ pr c, s.proposal = some pr ∧ pr.subject = .monitorSet m c

/-! ### Links and targets (R9, R120, R162) -/

/-- A present link stays in its entry's scope, and no chain is longer than 8; a monitor's target is in the monitor's scope;
and what an open ENTRY_SET or MONITOR_SET would install still passes its link or target check. -/
structure LinkLaw (s : State) : Prop where
  scope : ∀ e sc l, (s.entry e).state = .scoped sc → (s.entry e).contents.link = some l →
    (s.entry l).state = .scoped sc
  length : ∀ e sc, (s.entry e).state = .scoped sc → (s.chainFrom 9 (some e)).length ≤ 8
  target : ∀ m sc e, (s.monitor m).state = .scoped sc → (s.monitor m).contents.action = .notifyAndTrigger e →
    (s.entry e).state = .scoped sc
  proposedLink : ∀ pr e c, s.proposal = some pr → pr.subject = .entrySet e c → s.linkOk .common e c.link = true
  proposedTarget : ∀ pr m c, s.proposal = some pr → pr.subject = .monitorSet m c →
    s.targetInScope .common c.action = true

/-! ### Sampling clock and converter (R64, R70, R82, R84) -/

/-- A switch phase's requested setting. -/
def SwitchPhase.request : SwitchPhase → Option ClockSetting
  | .none => .none
  | .draining r => some r
  | .acquiring r => some r

/-- A run of CLKIN is in order (R91): every period in it is of 25 to 250 ns, 2 to 20 counts, and it has lasted at most 256 µs,
20480 counts, an edge at whose end is not of it (notes/assumptions/16.md). -/
structure RunLaw (x : ClkinRun) : Prop where
  begun : 1 ≤ x.edges
  unbroken : x.since ≤ 20
  fast : 2 * (x.edges - 1) + x.since ≤ x.length
  slow : x.length ≤ 20 * (x.edges - 1) + x.since
  lasted : x.length ≤ 20480
  last : x.since = 0 → x.length < 20480

/-- The items of R84 agree with one another and with the converter. -/
structure ClockLaw (s : State) : Prop where
  held : s.converter = .held ↔ ∃ r, s.clock.phase = .acquiring r
  draining : (∃ r, s.clock.phase = .draining r) → s.converter ≠ .idle
  deadline : s.clock.deadline ≠ none ↔ ∃ r, s.clock.phase = .acquiring r
  acquiring : ∀ r, s.clock.phase = .acquiring r → r.mode ≠ .internal ∧ r.mode ≠ s.clock.active.mode
  measured : s.clock.measured ≠ none ↔ s.clock.active.mode = .external
  locked : s.clock.loop = .locked ↔ s.clock.active.mode = .multiplied
  starting : s.clock.loop = .starting ↔ ∃ r, s.clock.phase = .acquiring r ∧ r.mode = .multiplied
  active : s.clock.active ≠ ⟨.multiplied, .d1⟩
  request : ∀ r, s.clock.phase.request = some r → r ≠ ⟨.multiplied, .d1⟩
  watched : s.clock.run ≠ none → ∃ r, s.clock.phase = .acquiring r ∧ r.mode = .external
  run : ∀ x, s.clock.run = some x → RunLaw x

/-- The conversion in flight of the converter, if there is one. -/
def Converter.copy? : Converter → Option Copy
  | .settling c => some c
  | .sampling c _ _ _ => some c
  | .calibrating => none
  | .idle => none
  | .held => none

/-- The converter's work is counted exactly while there is some; a chain has at most 8 links; a
running sum is one of as many codes in range as samples have ended; and only the first calibration has no offset and gain
to use. -/
structure ConverterLaw (s : State) : Prop where
  resting : s.converter = .idle ∨ s.converter = .held → s.work = none
  working : s.converter ≠ .idle → s.converter ≠ .held → s.work ≠ none
  position : ∀ c, s.converter.copy? = some c → 1 ≤ c.position ∧ c.position ≤ 8
  sum : ∀ c taken sum full, s.converter = .sampling c taken sum full →
    taken < avgCount c.avg ∧ lowCode c * (taken : Int) ≤ sum ∧ sum ≤ highCode c * (taken : Int)
  calibrated : s.calibration = none → s.converter = .calibrating

/-! ### The Result Store (R98, R100) -/

/-- A slot never written holds its reset record, and a RETIRED result carries no OVERRUN. -/
structure SlotLaw (s : State) : Prop where
  fresh : ∀ i, (s.slotAt i).valid = false → s.slotAt i = .reset
  retired : ∀ i, (s.slotAt i).retired = true → (s.slotAt i).overrun = false

/-! ### Device reset held (R83, R186) -/

/-- While the reset is held every block is at its reset state, but for what the frames at the ports were doing. -/
def HeldLaw (s : State) : Prop :=
  s.resetHeld = true →
    { s with ports := .fill (.reset s.resetCause), resetHeld := false, fresh := 0, pending := [] } =
        State.afterReset s.resetCause ∧
      ∀ p, ∃ frame, s.port p = { PortState.reset s.resetCause with frame := frame }

/-- All the laws. -/
structure Sound (s : State) : Prop where
  queue : QueueLaw s
  ports : LinkPortsLaw s
  owner : OwnerLaw s
  contents : ContentsLaw s
  proposal : ProposalLaw s
  links : LinkLaw s
  clock : ClockLaw s
  converter : ConverterLaw s
  slots : SlotLaw s
  held : HeldLaw s

/-- A step that ends neither in a fault nor in a refusal. -/
def SafeStep (s : State) : Prop := ∃ t, step s = .next t

/-! ### Words that the statements use -/

/-- A frame that ends at port `p` now is judged (R186). -/
def Judged (s : State) (p : Port) : Prop := s.resetHeld = false ∧ (s.port p).frame ≠ .abandoned

/-- Port `p` is attached, and a frame that ends there is judged, so its command reaches the owning block (R173). -/
def Serves (s : State) (p : Port) : Prop := Judged s p ∧ (s.port p).attached = true

/-- The session deadline after a taken frame that ends at time `now` (R179). -/
def PortState.restarted (x : PortState) (now : Time) : Option Time :=
  if x.attached = true ∧ x.timeout ≠ 0 then some (now + BitVec.ofNat 32 (x.timeout.toNat * 10000)) else x.deadline

/-- A port whose taken frame ends at time `now` with the answer `r` (R172, R173, R175, R179). -/
def PortState.answered (x : PortState) (now : Time) (r : Response) : PortState :=
  { x with slot := r, frame := .idle, gap := 0, deadline := x.restarted now }

/-- The state `s` after a taken frame of port `p` with the answer `r` and no other effect. -/
def State.answered (s : State) (p : Port) (r : Response) : State := s.setPort p ((s.port p).answered s.timebase r)

/-- The state after the ticket `k`, of an entry in scope `sc`, is dispatched: the ticket has left the queue, and SETTLING begins
with a copy of the entry as it stands, at chain position 1 (R60, R65, R69). -/
def State.dispatched (s : State) (k : Ticket) (sc : Scope) : State :=
  { s with
    queue := s.queue.filter fun x => x.entry ≠ k.entry
    converter := .settling
      { entry := k.entry, pos := (s.entry k.entry).contents.pos, neg := (s.entry k.entry).contents.neg,
        gain := (s.entry k.entry).contents.gain, settle := (s.entry k.entry).contents.settle,
        avg := (s.entry k.entry).contents.avg, dest := (s.entry k.entry).contents.dest,
        link := (s.entry k.entry).contents.link, notice := (s.entry k.entry).contents.notice,
        revision := (s.entry k.entry).revision, scope := sc, position := 1 }
    work := some ((8 + 8 * (s.entry k.entry).contents.settle.val) * clockPeriod s.clock.active) }

/-- `path` lists the entries visited by following links after entry `e`, up to one without a link (R10). -/
def State.followsLinks (s : State) (e : EntryId) : List EntryId → Prop
  | [] => (s.entry e).contents.link = none
  | x :: rest => (s.entry e).contents.link = some x ∧ s.followsLinks x rest

/-- `path` lists entries of scope `sc`, each but the first linking to the one before it, and the first to entry `e`: a path
that arrives at `e`, listed backward (R10). -/
def State.arrivesBy (s : State) (sc : Scope) (e : EntryId) : List EntryId → Prop
  | [] => True
  | x :: rest => (s.entry x).state = .scoped sc ∧ (s.entry x).contents.link = some e ∧ s.arrivesBy sc x rest

/-- From `s` to `t` port `p` has taken a frame with the answer `r`; but for the records in their event queues, no other
thing of any port has changed. -/
def Answered (s t : State) (p : Port) (r : Response) : Prop :=
  t.port p = { (s.port p).answered s.timebase r with events := (t.port p).events } ∧
    ∀ q, q ≠ p → t.port q = { s.port q with events := (t.port q).events }

/-- From `s` to `u` the session of port `p` has ended with PEER detail `detail`, up to step 6 of R181, and the port is left
as `x`. -/
structure SessionEnded (s u : State) (p : Port) (detail : PeerDetail) (x : PortState) : Prop where
  port : u.port p = x
  others : ∀ q, q ≠ p → u.port q =
    (s.port q).receive (s.port q).subs.peer (.peer p detail (s.port p).number) s.timebase
  entries : ∀ e, u.entry e = if (s.entry e).state = .ownedBy p then .free ((s.entry e).revision + 1) else s.entry e
  monitors : ∀ m, u.monitor m =
    if (s.monitor m).state = .ownedBy p then .free ((s.monitor m).revision + 1) else s.monitor m
  queue : u.queue = s.queue.filter fun k => (s.entry k.entry).state ≠ .ownedBy p
  rest : u = { s with entries := u.entries, monitors := u.monitors, queue := u.queue, ports := u.ports }

/-- `n` passings of time, `n` counts of 12.5 ns. -/
def State.ticks (s : State) : Nat → State
  | 0 => s
  | n + 1 => (s.ticks n).tick

/-- The port of a command that comes about at one port. -/
def portOf : Instr → Option Port
  | .frameError p _ => some p
  | .sessionExpiry p => some p
  | .frameStart p => some p
  | i => (frameParts i).map (·.1)

/-- The command is a device reset. -/
def isDeviceReset : Instr → Bool
  | .deviceReset _ => true
  | _ => false

end Sys2Proof.Machine
end

