-- ==== Sys2Proof/Certificates/Slice0/Obligations.lean ====
section
/-! DEFINITION. The statements for the provers. "Log n" is notes/assumptions/n.md. -/

open Sys2Proof Sys2Proof.Machine

/-! ### The machine: queue of commands, time, reset -/

/-- The front command of the queue acts on the state with the queue's rest. -/
def Obligations.StepTakesFrontCommand : Prop :=
  ∀ (c : Instr) (rest : List Instr) (s : State), s.pending = c :: rest → step s = exec c { s with pending := rest }

/-- With no command waiting, one of the events that are due is taken, and time passes when none is (the model's choice,
log 1 and log 2). While CLKIN counts the converter's work, or EXTERNAL is being acquired, a rising edge of CLKIN comes there
or time passes: which is free (log 5). An edge is one count of work on EXTERNAL; while EXTERNAL is being acquired it begins a
run or goes on with the one in progress, and after a period of less than 25 ns begins anew (log 16); it changes nothing else.
The events that are due: the expiry of each timer, session, proposal and acquisition whose scheduled instant the timebase
has reached, the qualification by a run of 256 µs, and the end of the converter's present stage when its periods are counted
out, with free inputs (log 7, log 8);
none while the reset is held (log 11). -/
def Obligations.EmptyQueueLetsTimeAct : Prop :=
  (∀ s : State, s.pending = [] →
     (s.dueEvents = [] →
       (s.resetHeld = true ∨ (s.clock.active.mode ≠ .external ∨ s.work = none) ∧
           (∀ r, s.clock.phase = .acquiring r → r.mode ≠ .external) → step s = .next s.tick) ∧
       (s.resetHeld = false →
         s.clock.active.mode = .external ∧ s.work ≠ none ∨ (∃ r, s.clock.phase = .acquiring r ∧ r.mode = .external) →
         step s = .next ({ s with fresh := s.fresh + 1 } : State).tick ∨
           ∃ t, step s = .next t ∧
             t = { s with
               fresh := s.fresh + 1
               work := if s.clock.active.mode = .external then s.work.map (· - 1) else s.work
               clock := { s.clock with run := t.clock.run } } ∧
             ((∀ r, s.clock.phase = .acquiring r → r.mode ≠ .external) → t.clock.run = s.clock.run) ∧
             ((∃ r, s.clock.phase = .acquiring r ∧ r.mode = .external) →
               (s.clock.run = none → t.clock.run = some ⟨1, 0, 0⟩) ∧
               ∀ x, s.clock.run = some x →
                 (2 ≤ x.since → t.clock.run = some ⟨x.edges + 1, x.length, 0⟩) ∧
                 (x.since < 2 → t.clock.run = some ⟨1, 0, 0⟩)))) ∧
       (s.dueEvents ≠ [] → ∃ c ∈ s.dueEvents, step s = exec c { s with fresh := s.fresh + 1 })) ∧
  (∀ s : State, 0 < s.freeAnalog.vref ∧ (s.resetHeld = true → s.dueEvents = [])) ∧
  (∀ (s : State) (c : Instr), s.resetHeld = false → (c ∈ s.dueEvents ↔
     (∃ k, c = .timerExpiry k ∧ (s.timer k).run = .running s.timebase) ∨
     (∃ p, c = .sessionExpiry p ∧ (s.port p).attached = true ∧ (s.port p).deadline = some s.timebase) ∨
     (c = .proposalExpiry ∧ ∃ pr, s.proposal = some pr ∧ pr.deadline = s.timebase) ∨
     (c = .acquisitionDeadlineExpiry ∧ s.clock.deadline = some s.timebase ∧
       ∃ r, s.clock.phase = .acquiring r ∧ r.mode ≠ .internal) ∨
     (∃ x, c = .qualification x.edges ∧ s.clock.run = some x ∧ x.length = 256 * 80 ∧
       ∃ r, s.clock.phase = .acquiring r ∧ r.mode = .external) ∨
     (s.work = some 0 ∧
       ((c = .endOfSettling ∧ ∃ copy, s.converter = .settling copy) ∨
        (c = .endOfSample s.freeAnalog ∧
          ∃ copy taken sum full, s.converter = .sampling copy taken sum full ∧ taken + 1 < avgCount copy.avg) ∨
        (c = .completion s.freeAnalog ∧
          ∃ copy taken sum full, s.converter = .sampling copy taken sum full ∧ avgCount copy.avg ≤ taken + 1) ∨
        (c = .calibrationEnd (Config.calibrationAt s.fresh) ∧ s.converter = .calibrating)))))

/-- Eighty passings of time, of 12.5 ns each, advance the timebase by one, whatever the other blocks do. A passing changes only
the timebase, the work that CLKIN does not count, the gaps, the pins' hold times and the run of CLKIN: the run goes on, and
is forgotten when it has seen no rising edge for more than 250 ns. A held reset stops time (the grid of 12.5 ns is the model's
choice, log 1 and log 11). -/
def Obligations.TimebaseRuns : Prop :=
  ∀ s : State,
    (s.resetHeld = true → s.tick = s) ∧
      (s.resetHeld = false →
        s.tick = { s with
          sub := s.sub + 1
          timebase := if s.sub = 79 then s.timebase + 1 else s.timebase
          work := if s.clock.active.mode = .external then s.work else s.work.map (· - 1)
          clock := { s.clock with
            run := s.clock.run.bind fun x =>
              if x.since < 20 then some ⟨x.edges, x.length + 1, x.since + 1⟩ else none }
          pins := s.pins.map fun x => { x with since := min 20 (x.since + 1) }
          ports := s.ports.mapIdx fun _ x => { x with gap := min 160 (x.gap + 1) } } ∧
        (s.ticks 80).timebase = s.timebase + 1 ∧ (s.ticks 80).sub = s.sub ∧
        (s.ticks 80).work = if s.clock.active.mode = .external then s.work else s.work.map (· - 80))

/-- Every command answers a next state in every state, an event that the part never produces there too, which then changes
nothing (the model's choice, log 3), and leaves the commands that wait (log 1) and the model's counter of free values
(log 21). -/
def Obligations.EveryCommandAnswersNext : Prop :=
  ∀ (c : Instr) (s : State), ∃ t, exec c s = .next t ∧ t.pending = s.pending ∧ t.fresh = s.fresh

/-- The state right after the release of a power-up (the choice of that moment, the position inside the microsecond and
the gap are the model's, log 10, log 1, log 12). -/
def Obligations.ResetState : Prop :=
  (∀ e, State.reset.entry e = .free 0) ∧ (∀ m, State.reset.monitor m = .free 0) ∧
    (∀ i, State.reset.slotAt i = .reset) ∧ (∀ k, State.reset.timer k = ⟨10000, .stopped⟩) ∧
    (∀ k, State.reset.pin k = ⟨.off, none, 0⟩) ∧ (∀ p, State.reset.port p = .reset .power) ∧
    State.reset.timebase = 0 ∧ State.reset.queue = [] ∧ State.reset.arrival = 0 ∧ State.reset.aging = 0 ∧
    State.reset.window = 40 ∧ State.reset.proposal = none ∧ State.reset.nextId = 0 ∧
    State.reset.converter = .calibrating ∧ State.reset.work = some (512 * 80) ∧ State.reset.calibration = none ∧
    State.reset.clock = ⟨⟨.internal, .d1⟩, .none, none, none, .stopped, none⟩ ∧ State.reset.resetCause = .power ∧
    State.reset.pending = []

/-- Device reset puts every block at its reset state and is held; a frame in progress is abandoned; reset release starts
the timebase, the calibration and the pins' 250 ns, and does nothing when no reset is held (log 3). The cause of a reset during
a reset and the still timebase are deduced (log 11), the cleared gap is the model's choice (log 12), and the commands that
wait and the counter of free values stay (log 21). -/
def Obligations.DeviceResetAndRelease : Prop :=
  ∀ (s : State) (cause : ResetCause),
    (∃ t, exec (.deviceReset cause) s = .next t ∧
      t.resetHeld = true ∧
      t.resetCause = (if s.resetHeld = true ∧ s.resetCause = .power then .power else cause) ∧
      (∀ e, t.entry e = .free 0) ∧ (∀ m, t.monitor m = .free 0) ∧ (∀ i, t.slotAt i = .reset) ∧
      (∀ k, t.timer k = ⟨10000, .stopped⟩) ∧ (∀ k, t.pin k = ⟨.off, none, 0⟩) ∧
      t.queue = [] ∧ t.arrival = 0 ∧ t.aging = 0 ∧ t.window = 40 ∧ t.proposal = none ∧ t.nextId = 0 ∧
      t.converter = .calibrating ∧ t.calibration = none ∧
      t.clock = ⟨⟨.internal, .d1⟩, .none, none, none, .stopped, none⟩ ∧
      (∀ p, t.port p = { PortState.reset t.resetCause with
        frame := if (s.port p).frame = .idle then .idle else .abandoned })) ∧
      (s.resetHeld = true → exec .resetRelease s = .next { s with
        resetHeld := false, timebase := 0, sub := 0, converter := .calibrating, work := some (512 * 80)
        pins := s.pins.map fun x => { x with since := 0 } }) ∧
      (s.resetHeld = false → exec .resetRelease s = .next s)

/-! ### Frames -/

/-- Frames written out byte by byte from the link layout table are taken as the commands they stand for. -/
def Obligations.FramesDecode : Prop :=
  decodeFrame .a ⟨[0x00, 0x00, 0xD7], 0⟩ = .taken (.fetch .a 0x00) ∧
    decodeFrame .b ⟨[0x01, 0x11, 0x0A, 0x11, 0xFB], 0⟩ = .taken (.attach .b 0x11 10 0x11) ∧
    decodeFrame .c ⟨[0x10, 0x20, 0x05, 0x3C, 0xFF, 0xFF], 0⟩ = .taken (.claimEntry .c 0x20 5) ∧
    decodeFrame .a ⟨[0x11, 0x01, 0x03, 18, 16, 0, 0, 0, 0, 0, 0, 0xFF, 0, 0x55], 0⟩ =
      .taken (.writeEntry .a 0x01 3 ⟨18, 16, 0, 0, 0, 0, 0, 0, 0xFF, 0⟩) ∧
    decodeFrame .a ⟨[0x20, 0x02, 0x3C, 0x04, 0xD0], 0⟩ = .taken (.readSlots .a 0x02 60 4) ∧
    decodeFrame .b ⟨[0x29, 0x03, 0x0B, 7, 0xFF, 0x9C, 0x00, 0x64, 0x00, 0x05, 2, 3, 1, 9, 0x82], 0⟩ =
      .taken (.writeMonitor .b 0x03 11 ⟨7, 0xFF9C, 0x0064, 0x0005, 2, 3, 1, 9⟩) ∧
    decodeFrame .c ⟨[0x38, 0x04, 0x05, 0x02, 0x00, 0x64, 0x01, 0x1F], 0⟩ =
      .taken (.propose .c 0x04 (.timerSet 2 100 1)) ∧
    decodeFrame .a ⟨[0x39, 0x05, 0x07, 0x01, 0x72], 0⟩ = .taken (.vote .a 0x05 7 1) ∧
    decodeFrame .a ⟨[0x30, 0x06, 0x3C], 0⟩ = .taken (.takeEvents .a 0x06) ∧
    decodeFrame .a ⟨[0x00, 0x00, 0xD6], 0⟩ = .error .crc 0x00 0x00

/-- The frame of every link command, with any filler that fits, is taken as that command: no bit of any operand is lost. -/
def Obligations.FrameRoundTrip : Prop :=
  ∀ (i : Instr) (p : Port) (code tag : Byte) (args : List Byte) (filler : Nat),
    frameParts i = some (p, code, tag, args) → args.length + 3 + filler ≤ 64 →
      ∃ f, encodeFrame i filler = some f ∧ decodeFrame p f = .taken i

/-- A frame that is taken is the frame of the command it is taken as, followed by filler of 0xFF. -/
def Obligations.TakenFrameSpellsItsCommand : Prop :=
  ∀ (p : Port) (f : RawFrame) (i : Instr), decodeFrame p f = .taken i →
    portOf i = some p ∧ f.bytes.length ≤ 64 ∧ ∃ filler, encodeFrame i filler = some f

/-- FRAME_ERROR: the slot takes a FRAME_ERROR record with the cause, and the session, its deadline and every other thing
stay. A frame that passes every check is no frame error and changes nothing here (log 17).
The checks of R171 in their order: the first that fails gives the cause, with the tag and the command code received, or
0 for what was not received. -/
def Obligations.FrameErrors : Prop :=
  (∀ (s : State) (p : Port) (f : RawFrame), Judged s p →
     (∀ cause tag echo, decodeFrame p f = .error cause tag echo →
       exec (.frameError p f) s = .next (s.setPort p { s.port p with
         slot := ⟨tag, echo, .frameError, [match cause with | .length => 1 | .crc => 2 | .unknown => 3]⟩
         frame := .idle
         gap := 0 })) ∧
     (∀ i, decodeFrame p f = .taken i → exec (.frameError p f) s = .next s)) ∧
  (∀ (p : Port) (bytes : List Byte) (extra : Nat),
     (extra ≠ 0 ∨ 64 < bytes.length →
       decodeFrame p ⟨bytes, extra⟩ = .error .length (bytes.getD 1 0) (bytes.getD 0 0)) ∧
     (extra = 0 → bytes.length < 2 → decodeFrame p ⟨bytes, extra⟩ = .error .length 0 (bytes.getD 0 0)) ∧
     (∀ code tag rest, extra = 0 → bytes.length ≤ 64 → bytes = code :: tag :: rest →
       (code ∉ [0x00, 0x01, 0x02, 0x03, 0x04, 0x05, 0x10, 0x11, 0x12, 0x13, 0x18, 0x19, 0x20, 0x21, 0x28, 0x29, 0x2A,
         0x2B, 0x30, 0x38, 0x39, 0x3A, 0x3B, 0x3C] → decodeFrame p ⟨bytes, extra⟩ = .error .unknown tag code) ∧
       (code = 0x38 → rest = [] → decodeFrame p ⟨bytes, extra⟩ = .error .length tag code) ∧
       (code = 0x38 → ∀ subject more, rest = subject :: more → (subject = 0 ∨ 9 < subject.toNat) →
         decodeFrame p ⟨bytes, extra⟩ = .error .unknown tag code) ∧
       (∀ n, frameArgs code rest = .ok n →
         (bytes.length < n + 3 → decodeFrame p ⟨bytes, extra⟩ = .error .length tag code) ∧
         (n + 3 ≤ bytes.length → (∃ b ∈ bytes.drop (n + 3), b ≠ 0xFF) →
           decodeFrame p ⟨bytes, extra⟩ = .error .length tag code) ∧
         (n + 3 ≤ bytes.length → (∀ b ∈ bytes.drop (n + 3), b = 0xFF) →
           bytes.getD (n + 2) 0 ≠ crc8 (bytes.take (n + 2)) →
             decodeFrame p ⟨bytes, extra⟩ = .error .crc tag code))))

/-- FRAME_START: a frame that begins at a port whose select line was high shifts out the slot, or a NOT_READY record when
it begins less than 2 µs after the previous one; while the reset is held it will not be judged. The 2 µs are counted as 160
counts of 12.5 ns, and a beginning inside the last of them is the model's rounding (log 6). -/
def Obligations.FrameStartCommand : Prop :=
  ∀ (s : State) (p : Port), (s.port p).frame = .idle →
    exec (.frameStart p) s = .next (s.setPort p { s.port p with
      frame := if s.resetHeld = true then .abandoned
        else .shifting (if (s.port p).gap < 2 * 80 then ⟨0, 0, .notReady, []⟩ else (s.port p).slot) })

/-- What SDOx carries: the record of the frame in progress with its CRC, then 0xFF; nothing while no frame is driven. That
nothing is driven in a frame begun while the reset was held, after the release too, is the model's choice (log 24).
The bytes of the statuses. -/
def Obligations.RecordOnTheWire : Prop :=
  (∀ st : Status, statusByte st = match st with
     | .ok => 0x00 | .coalesced => 0x01 | .already => 0x02 | .busy => 0x03 | .denied => 0x04 | .notAttached => 0x05
     | .invalid => 0x06 | .quota => 0x07 | .queueFull => 0x08 | .chainInvalid => 0x09 | .noProposal => 0x0A
     | .noData => 0x0B | .frameError => 0x10 | .notReady => 0x11 | .reset => 0x12 | .expired => 0x13) ∧
  (∀ (s : State) (p : Port), (s.port p).frame = .idle ∨ (s.port p).frame = .abandoned → ∀ n, s.sdo p n = none) ∧
  ∀ (s : State) (p : Port) (r : Response), (s.port p).frame = .shifting r → r.data.length ≤ 48 →
    let head := [r.tag, r.echo, statusByte r.status, BitVec.ofNat 8 r.data.length] ++ r.data
    (∀ n, n < r.data.length + 4 → s.sdo p n = head[n]?) ∧
      s.sdo p (r.data.length + 4) = some (crc8 head) ∧ (∀ n, r.data.length + 5 ≤ n → s.sdo p n = some 0xFF)

/-- A command whose frame is not judged, in a held reset or abandoned by one, only ends the frame (that its end starts no gap
is the model's choice, log 12).
A judged command of a detached port, other than ATTACH, FETCH and READ_STATUS, is answered NOT_ATTACHED, and nothing
but the port's slot and frame changes. -/
def Obligations.UnjudgedAndDetachedFrames : Prop :=
  (∀ (c : Instr) (s : State) (p : Port), portOf c = some p → (frameParts c).isSome = true ∨ (∃ f, c = .frameError p f) →
     ¬Judged s p → exec c s = .next (s.setPort p { s.port p with frame := .idle })) ∧
  (∀ (c : Instr) (s : State) (p : Port) (code tag : Byte) (args : List Byte),
     frameParts c = some (p, code, tag, args) → code ≠ 0x00 → code ≠ 0x01 → code ≠ 0x04 →
     Judged s p → (s.port p).attached = false →
       exec c s = .next (s.setPort p { s.port p with slot := ⟨tag, code, .notAttached, []⟩, frame := .idle, gap := 0 }))

/-- A command at one port, and an event of any other block but a device reset, changes nothing of another port but the
records in its event queue. -/
def Obligations.OtherPortsKeepTheirSession : Prop :=
  ∀ (c : Instr) (s t : State) (q : Port), exec c s = .next t → isDeviceReset c = false → portOf c ≠ some q →
    t.port q = { s.port q with events := (t.port q).events }

/-! ### Sessions -/

/-- FETCH leaves the slot and restarts the session timer of an attached port; nothing else changes. -/
def Obligations.FetchCommand : Prop :=
  ∀ (s : State) (p : Port) (tag : Byte), Judged s p →
    exec (.fetch p tag) s = .next (s.setPort p { s.port p with
      frame := .idle, gap := 0, deadline := (s.port p).restarted s.timebase })

/-- ATTACH: from a detached port a session opens and the other subscribed ports are told; a set outside the encoding is
INVALID; from an attached port the answer is ALREADY. -/
def Obligations.AttachCommand : Prop :=
  ∀ (s : State) (p : Port) (tag timeout subs : Byte), Judged s p →
    ((s.port p).attached = false → subs.toNat < 32 →
      ∃ t, exec (.attach p tag timeout subs) s = .next t ∧ t = { s with ports := t.ports } ∧
        t.port p = { s.port p with
          attached := true, number := (s.port p).number + 1, timeout := timeout
          deadline := if timeout = 0 then none else some (s.timebase + BitVec.ofNat 32 (timeout.toNat * 10000))
          subs := ⟨subs.getLsbD 0, subs.getLsbD 1, subs.getLsbD 2, subs.getLsbD 3, subs.getLsbD 4⟩
          events := [], snapshot := [], abandons := 0
          slot := ⟨tag, 0x01, .ok, [(s.port p).number + 1]⟩, frame := .idle, gap := 0 } ∧
        ∀ q, q ≠ p → t.port q =
          (s.port q).receive (s.port q).subs.peer (.peer p .attached ((s.port p).number + 1)) s.timebase) ∧
    ((s.port p).attached = false → 32 ≤ subs.toNat →
      exec (.attach p tag timeout subs) s = .next (s.answered p ⟨tag, 0x01, .invalid, []⟩)) ∧
    ((s.port p).attached = true →
      exec (.attach p tag timeout subs) s = .next (s.answered p ⟨tag, 0x01, .already, [(s.port p).number]⟩))

/-- A notice raised to a set of ports joins the queue of each attached port of the set, and changes nothing else (that a
detached port receives none is deduced, log 13).
The arrival of a notice at an event queue: a COMPLETION notice is folded into the untaken COMPLETION record of its entry;
any other arrival is appended with count 1, or lost: into a new OVERFLOW record at the end of 15 records, or into the count of
the OVERFLOW record that stands.
What a port receives, named in other statements: the record when it is addressed and attached, and nothing otherwise.
The notice set of an item: its owner when it subscribes to the kind, and for a COMMON item every port that does.
A saturating counter stops at its maximum. -/
def Obligations.NoticesReachTheQueues : Prop :=
  (∀ (s : State) (st : ItemState) (kind : Subscriptions → Bool) (q : Port), (s.noticeSet st kind).get q = true ↔
     (st = .ownedBy q ∨ st = .shared) ∧ kind (s.port q).subs = true) ∧
  (∀ (w : Nat) (x : BitVec w), (satInc x).toNat = min (2 ^ w - 1) (x.toNat + 1)) ∧
  (∀ (x : PortState) (addressed : Bool) (n : Notice) (now : Time), x.receive addressed n now = { x with
     events := if addressed = true ∧ x.attached = true then enqueue x.events n now else x.events }) ∧
  (∀ (s : State) (n : Notice) (who : PortSet),
     s.raise n who = { s with ports := (s.raise n who).ports } ∧
       ∀ q, (s.raise n who).port q = { s.port q with
         events := if who.get q = true ∧ (s.port q).attached = true then enqueue (s.port q).events n s.timebase
           else (s.port q).events }) ∧
  (∀ (q : List EventRecord) (n : Notice) (now : Time),
     (∀ e i sequence v, n = .completion e i sequence v → (∃ r ∈ q, r.isCompletionOf e = true) →
       enqueue q n now = q.map fun r => if r.isCompletionOf e = true then ⟨n, satInc r.count, now⟩ else r) ∧
     ((∀ e i sequence v, n = .completion e i sequence v → ∀ r ∈ q, r.isCompletionOf e = false) →
       ((∃ r ∈ q, r.isOverflow = true) →
         enqueue q n now = q.map fun r => if r.isOverflow = true then { r with count := satInc r.count } else r) ∧
       ((∀ r ∈ q, r.isOverflow = false) → q.length < 15 → enqueue q n now = q ++ [⟨n, 1, now⟩]) ∧
       ((∀ r ∈ q, r.isOverflow = false) → 15 ≤ q.length → enqueue q n now = q ++ [⟨.overflow n.kind, 1, now⟩])))

/-- DETACH: the session ends with PEER detail DETACHED, and the OK answer stays in the slot of the detached port. -/
def Obligations.DetachCommand : Prop :=
  ∀ (s : State) (p : Port) (tag : Byte), Serves s p → LinkLaw s →
    ∃ u, SessionEnded s u p .detached { s.port p with
        attached := false, timeout := 0, deadline := none, subs := .empty, events := [], snapshot := [], abandons := 0
        frame := .idle, gap := 0 } ∧
      exec (.detach p tag) s = .next ((u.partyLeaves p).place p ⟨tag, 0x02, .ok, []⟩)

/-- SESSION_EXPIRY: when the timebase is at the deadline of an attached port, the session ends with PEER detail EXPIRED,
and the slot takes the EXPIRED marker with the number of the session that ended. -/
def Obligations.SessionExpiryCommand : Prop :=
  ∀ (s : State) (p : Port), s.resetHeld = false → (s.port p).attached = true →
    (s.port p).deadline = some s.timebase → LinkLaw s →
    ∃ u, SessionEnded s u p .expired { s.port p with
        attached := false, timeout := 0, deadline := none, subs := .empty, events := [], snapshot := [], abandons := 0 } ∧
      exec (.sessionExpiry p) s = .next ((u.partyLeaves p).place p ⟨0, 0, .expired, [(s.port p).number]⟩)

/-- What a session end does to an open proposal: the author's closes it WITHDRAWN; a voter's takes the voter out of both
sets and closes it ADOPTED when no voter is left to accept; any other port's does nothing.
The close of a proposal: the slot is empty, the author and the required voters that are attached get the PROPOSAL record
whatever their subscriptions, and then an adopted subject is installed and a reservation undone otherwise (the order of
record and installation is deduced, log 14). -/
def Obligations.ProposalCloses : Prop :=
  (∀ (s : State) (p : Port),
     (s.proposal = none → s.partyLeaves p = s) ∧
       ∀ pr, s.proposal = some pr →
         let rest := { pr with required := pr.required.set p false, accepted := pr.accepted.set p false }
         (pr.author = p → s.partyLeaves p = s.close pr .withdrawn) ∧
         (pr.author ≠ p → pr.required.get p = false → s.partyLeaves p = s) ∧
         (pr.author ≠ p → pr.required.get p = true →
           (∀ q, rest.required.get q = true → rest.accepted.get q = true) →
             s.partyLeaves p = s.close rest .adopted) ∧
         (pr.author ≠ p → pr.required.get p = true →
           (∃ q, rest.required.get q = true ∧ rest.accepted.get q = false) →
             s.partyLeaves p = { s with proposal := some rest })) ∧
  (∀ (s : State) (pr : Proposal),
     ∀ o, ∃ v, v = { s with proposal := none, ports := v.ports } ∧
         (∀ q, v.port q =
           (s.port q).receive (decide (q = pr.author) || pr.required.get q) (.proposal pr.id o pr.author) s.timebase) ∧
         (o = .adopted → s.close pr o = v.install pr.subject) ∧
         (o = .refused ∨ o = .expired ∨ o = .withdrawn →
           (∀ e c, pr.subject = .entrySet e c → (s.entry e).state = .reserved →
             s.close pr o = v.setEntry e { s.entry e with state := .free }) ∧
           (∀ m c, pr.subject = .monitorSet m c → (s.monitor m).state = .reserved →
             s.close pr o = v.setMonitor m { s.monitor m with state := .free }) ∧
           ((∀ e c, pr.subject = .entrySet e c → (s.entry e).state ≠ .reserved) →
             (∀ m c, pr.subject = .monitorSet m c → (s.monitor m).state ≠ .reserved) → s.close pr o = v)))

/-- SUBSCRIBE: the set replaces the port's, or is INVALID.
TAKE_EVENTS: up to 4 of the oldest records leave the queue and are returned with the number remaining; the attention
line is released when the last one leaves.
The attention line: asserted exactly while the port is attached and its event queue is not empty.
The bytes of an event record, kind by kind. -/
def Obligations.SubscribeAndTakeEventsCommands : Prop :=
  (∀ (n : Notice) (count : BitVec 8) (stamp : Time),
     let record := fun (kind code : Nat) (index : Byte) (sequence value : BitVec 16) =>
       [BitVec.ofNat 8 (32 * kind + code), index, count] ++ be16 sequence ++ be32 stamp ++ be16 value
     eventBytes ⟨n, count, stamp⟩ = match n with
       | .completion e i sequence v => record 0 e.val (BitVec.ofNat 8 i.val) sequence v
       | .monitor m (.zone z) v =>
         record 1 (match z with | .below => 1 | .inside => 2 | .above => 3) (BitVec.ofNat 8 m.val) 0 v
       | .monitor m .retargeted v => record 1 4 (BitVec.ofNat 8 m.val) 0 v
       | .dropped e => record 2 1 (BitVec.ofNat 8 e.val) 0 0
       | .discarded e cause =>
         record 3 (match cause with | .edited => 1 | .released => 2 | .chainBroken => 3) (BitVec.ofNat 8 e.val) 0 0
       | .proposal id o author =>
         record 4 (match o with | .opened => 0 | .adopted => 1 | .refused => 2 | .expired => 3 | .withdrawn => 4) id 0
           (match author with | .a => 0 | .b => 1 | .c => 2)
       | .clock r o =>
         record 5 (match o with
             | .done => 0 | .failed .lockTimeout => 1 | .failed .noClock => 2 | .failed .tooFast => 3)
           (match r.mode with | .internal => 0 | .multiplied => 1 | .external => 2) 0
           (match r.divider with | .d1 => 1 | .d2 => 2 | .d4 => 4 | .d8 => 8)
       | .peer p d number =>
         record 6 (match d with | .attached => 0 | .detached => 1 | .expired => 2)
           (match p with | .a => 0 | .b => 1 | .c => 2) 0 (number.setWidth 16)
       | .overflow lost =>
         record 7 (match lost with
           | .completion => 0 | .monitor => 1 | .dropped => 2 | .discarded => 3 | .proposal => 4 | .clock => 5 | .peer => 6
           | .overflow => 7) 0 0 0) ∧
  (∀ (s : State) (p : Port) (tag subs : Byte), Serves s p →
     (subs.toNat < 32 → exec (.subscribe p tag subs) s = .next (s.setPort p
       { (s.port p).answered s.timebase ⟨tag, 0x03, .ok, [subs]⟩ with
         subs := ⟨subs.getLsbD 0, subs.getLsbD 1, subs.getLsbD 2, subs.getLsbD 3, subs.getLsbD 4⟩ })) ∧
     (32 ≤ subs.toNat → exec (.subscribe p tag subs) s = .next (s.answered p ⟨tag, 0x03, .invalid, []⟩))) ∧
  (∀ (s : State) (p : Port) (tag : Byte), Serves s p →
     ∃ t, exec (.takeEvents p tag) s = .next t ∧
       t = s.setPort p { (s.port p).answered s.timebase ⟨tag, 0x30, .ok,
           [BitVec.ofNat 8 (min 4 (s.port p).events.length), BitVec.ofNat 8 ((s.port p).events.length - 4)] ++
             ((s.port p).events.take 4).flatMap eventBytes⟩ with
         events := (s.port p).events.drop 4 } ∧
       (t.attention p = true ↔ 4 < (s.port p).events.length)) ∧
  ∀ (s : State) (p : Port), s.attention p = true ↔ (s.port p).attached = true ∧ (s.port p).events ≠ []

/-! ### Reads -/

/-- READ_STATUS, READ_COMMON, READ_PROPOSAL, READ_ENTRY and READ_MONITOR answer their records and change nothing but the
port's slot, frame and session timer; an index out of range is INVALID, and no open proposal is NO_DATA.
RESTATE: the session's number, timeout, time to its deadline before this frame restarts it, and subscriptions.
The bytes of the status record, of the common record and of the proposal record in their order. -/
def Obligations.ReadingCommands : Prop :=
  (∀ (s : State) (p : Port), statusRecord s p =
     [converterByte s.converter, clockModeByte s.clock.active.mode, dividerByte s.clock.active.divider,
       phaseByte s.clock.phase, BitVec.ofNat 8 s.queue.length,
       if (s.port .a).attached = true then 1 else 0, (s.port .a).number,
       if (s.port .b).attached = true then 1 else 0, (s.port .b).number,
       if (s.port .c).attached = true then 1 else 0, (s.port .c).number,
       if s.proposal = none then 0 else 1, (s.proposal.map (·.id)).getD 0,
       match s.resetCause with | .power => 1 | .pin => 2] ++ be32 s.timebase ++
     [BitVec.ofNat 8 (s.queue.filter fun k => k.origin = .port p).length,
       BitVec.ofNat 8 ((List.finRange 32).filter fun e => (s.entry e).state = .ownedBy p).length,
       BitVec.ofNat 8 ((List.finRange 12).filter fun m => (s.monitor m).state = .ownedBy p).length,
       BitVec.ofNat 8 (s.port p).events.length, (s.port p).abandons]) ∧
  (∀ s : State, ∃ (edges : Byte) (entries : BitVec 32) (monitors : BitVec 16), commonRecord s =
     ([0, 1, 2, 3] : List TimerId).flatMap (fun k => be16 (s.timer k).period ++
       match (s.timer k).run with | .stopped => [0, 0, 0, 0, 0] | .running next => 1 :: be32 next) ++
     [edges, clockModeByte s.clock.active.mode, dividerByte s.clock.active.divider, phaseByte s.clock.phase] ++
     (match s.clock.phase with
       | .none => [0xFF, 0xFF]
       | .draining r => [clockModeByte r.mode, dividerByte r.divider]
       | .acquiring r => [clockModeByte r.mode, dividerByte r.divider]) ++
     [s.aging, s.window] ++ be32 entries ++ be16 monitors ∧
     (∀ k : PinId, edges.toNat / 4 ^ k.val % 4 =
       match (s.pin k).mode with | .off => 0 | .rising => 1 | .falling => 2 | .both => 3) ∧
     (∀ e : EntryId, entries.getLsbD e.val = decide ((s.entry e).state = .shared)) ∧
     (∀ m : MonId, monitors.getLsbD m.val = decide ((s.monitor m).state = .shared)) ∧
     (∀ i, 12 ≤ i → monitors.getLsbD i = false)) ∧
  (∀ (pr : Proposal) (now : Time), proposalRecord pr now =
     [pr.id, portByte pr.author] ++
     (match pr.subject with
       | .entrySet e c => [0x01, BitVec.ofNat 8 e.val] ++ contentsBytes c
       | .entryRemove e => [0x02, BitVec.ofNat 8 e.val]
       | .monitorSet m c => [0x03, BitVec.ofNat 8 m.val] ++ monitorContentsBytes c
       | .monitorRemove m => [0x04, BitVec.ofNat 8 m.val]
       | .timerSet k period run => [0x05, BitVec.ofNat 8 k.val] ++ be16 period ++ [if run = true then 1 else 0]
       | .pinSet k edge =>
         [0x06, BitVec.ofNat 8 k.val, match edge with | .off => 0 | .rising => 1 | .falling => 2 | .both => 3]
       | .clockSet r => [0x07, clockModeByte r.mode, dividerByte r.divider]
       | .agingSet period => [0x08, period]
       | .windowSet window => [0x09, window]) ++
     be32 pr.deadline ++ be32 now ++ [portSetByte pr.required, portSetByte pr.accepted]) ∧
  (∀ (s : State) (p : Port) (tag : Byte),
     (Judged s p → exec (.readStatus p tag) s = .next (s.answered p ⟨tag, 0x04, .ok, statusRecord s p⟩)) ∧
     (Serves s p →
       exec (.readCommon p tag) s = .next (s.answered p ⟨tag, 0x3C, .ok, commonRecord s⟩) ∧
       (∀ pr, s.proposal = some pr →
         exec (.readProposal p tag) s = .next (s.answered p ⟨tag, 0x3B, .ok, proposalRecord pr s.timebase⟩)) ∧
       (s.proposal = none → exec (.readProposal p tag) s = .next (s.answered p ⟨tag, 0x3B, .noData, []⟩)) ∧
       (∀ e : EntryId, exec (.readEntry p tag (BitVec.ofNat 8 e.val)) s =
         .next (s.answered p ⟨tag, 0x12, .ok, entryRecord (s.entry e)⟩)) ∧
       (∀ e : Byte, 32 ≤ e.toNat → exec (.readEntry p tag e) s = .next (s.answered p ⟨tag, 0x12, .invalid, []⟩)) ∧
       (∀ m : MonId, exec (.readMonitor p tag (BitVec.ofNat 8 m.val)) s =
         .next (s.answered p ⟨tag, 0x2A, .ok, monitorRecord (s.monitor m)⟩)) ∧
       (∀ m : Byte, 12 ≤ m.toNat → exec (.readMonitor p tag m) s = .next (s.answered p ⟨tag, 0x2A, .invalid, []⟩)))) ∧
  (∀ (s : State) (p : Port) (tag : Byte), Serves s p → PortLaw (s.port p) →
     ∃ remaining : BitVec 32,
       exec (.restate p tag) s = .next (s.answered p ⟨tag, 0x05, .ok,
         [(s.port p).number, (s.port p).timeout] ++ be32 remaining ++ [subsByte (s.port p).subs]⟩) ∧
       ((s.port p).timeout = 0 → remaining = 0xFFFFFFFF) ∧
       ((s.port p).timeout ≠ 0 → (s.port p).deadline = some (s.timebase + remaining)))

/-- The codes of section 11.3, and multi-byte fields most significant byte first.
The bytes of the entry and monitor records in their order; the lengths of the records of Chapter 11, and contents that read
back as what was written. -/
def Obligations.RecordLayouts : Prop :=
  (∀ x : BitVec 16, be16 x = [BitVec.ofNat 8 (x.toNat / 256), BitVec.ofNat 8 x.toNat]) ∧
  (∀ x : BitVec 32, be32 x = [BitVec.ofNat 8 (x.toNat / 256 ^ 3), BitVec.ofNat 8 (x.toNat / 256 ^ 2),
     BitVec.ofNat 8 (x.toNat / 256), BitVec.ofNat 8 x.toNat]) ∧
  (∀ p, portByte p = match p with | .a => 0 | .b => 1 | .c => 2) ∧
  (∀ x : PortSet, (portSetByte x).toNat = (if x.a = true then 1 else 0) + (if x.b = true then 2 else 0) +
     (if x.c = true then 4 else 0)) ∧
  (∀ x : Subscriptions, (subsByte x).toNat = (if x.completion = true then 1 else 0) + (if x.monitor = true then 2 else 0) +
     (if x.loss = true then 4 else 0) + (if x.clock = true then 8 else 0) + (if x.peer = true then 16 else 0)) ∧
  (∀ c, converterByte c = match c with
     | .calibrating => 0 | .idle => 1 | .settling _ => 2 | .sampling _ _ _ _ => 3 | .held => 4) ∧
  (∀ m, clockModeByte m = match m with | .internal => 0 | .multiplied => 1 | .external => 2) ∧
  (∀ d, dividerByte d = match d with | .d1 => 1 | .d2 => 2 | .d4 => 4 | .d8 => 8) ∧
  (∀ x, phaseByte x = match x with | .none => 0 | .draining _ => 1 | .acquiring _ => 2) ∧
  (∀ c : EntryContents, contentsBytes c =
     [(rawContents c).pos, (rawContents c).neg, (rawContents c).gain, (rawContents c).settle, (rawContents c).avg,
       (rawContents c).dest, (rawContents c).trigger, (rawContents c).cls, (rawContents c).link, (rawContents c).notice]) ∧
  (∀ x : Entry, entryRecord x = contentsBytes x.contents ++
     [match x.state with | .free => 0 | .scoped (.own _) => 1 | .scoped .common => 2 | .reserved => 3,
       match x.state with | .scoped (.own p) => portByte p | _ => 0xFF,
       x.revision, x.overruns, x.drops, if x.overrunPending = true then 1 else 0]) ∧
  (∀ c : MonitorContents, monitorContentsBytes c =
     [(rawMonitorContents c).slot] ++ be16 c.low ++ be16 c.high ++ be16 (rawMonitorContents c).hyst ++
       [(rawMonitorContents c).persist, (rawMonitorContents c).edge, (rawMonitorContents c).action,
         (rawMonitorContents c).target]) ∧
  (∀ x : Monitor, monitorRecord x = monitorContentsBytes x.contents ++
     [match x.state with | .free => 0 | .scoped (.own _) => 1 | .scoped .common => 2 | .reserved => 3,
       match x.state with | .scoped (.own p) => portByte p | _ => 0xFF,
       x.revision,
       match x.zone with | none => 0 | some .below => 1 | some .inside => 2 | some .above => 3,
       match x.candidate with | none => 0xFF | some (.below, _) => 1 | some (.inside, _) => 2 | some (.above, _) => 3,
       match x.candidate with | none => 0 | some (_, n) => BitVec.ofNat 8 n] ++ be16 x.crossings) ∧
  (∀ x : Entry, (entryRecord x).length = 16) ∧ (∀ x : Monitor, (monitorRecord x).length = 19) ∧
    (∀ r : SlotRecord, (slotBytes r).length = 11) ∧ (∀ r : EventRecord, (eventBytes r).length = 11) ∧
    (∀ s : State, (commonRecord s).length = 42) ∧ (∀ s p, (statusRecord s p).length = 23) ∧
    (∀ (pr : Proposal) now, (proposalRecord pr now).length = 13 + (subjectArgs pr.subject).length) ∧
    (∀ c : EntryContents, readContents (rawContents c) = some c) ∧
    (∀ c : MonitorContents, readMonitorContents (rawMonitorContents c) = some c) ∧
    contentsBytes .default = [18, 16, 0, 0, 0, 0, 0x00, 0, 0xFF, 0x00]

/-! ### The Plan Table -/

/-- CLAIM_ENTRY by its checks in order. -/
def Obligations.ClaimEntryCommand : Prop :=
  ∀ (s : State) (p : Port) (tag : Byte), Serves s p →
    (∀ e : Byte, 32 ≤ e.toNat → exec (.claimEntry p tag e) s = .next (s.answered p ⟨tag, 0x10, .invalid, []⟩)) ∧
    ∀ e : EntryId,
      ((s.entry e).state ≠ .free →
        exec (.claimEntry p tag (BitVec.ofNat 8 e.val)) s = .next (s.answered p ⟨tag, 0x10, .busy, []⟩)) ∧
      ((s.entry e).state = .free → 16 ≤ s.entryCount p →
        exec (.claimEntry p tag (BitVec.ofNat 8 e.val)) s = .next (s.answered p ⟨tag, 0x10, .quota, []⟩)) ∧
      ((s.entry e).state = .free → s.entryCount p < 16 →
        exec (.claimEntry p tag (BitVec.ofNat 8 e.val)) s =
          .next ((s.setEntry e
            { contents := (s.entry e).contents, state := .ownedBy p, revision := (s.entry e).revision + 1,
              overruns := 0, drops := 0, overrunPending := false } : State).answered p
                ⟨tag, 0x10, .ok, [(s.entry e).revision + 1]⟩))

/-- The checks of entry contents in their order: values, inputs and gain answered INVALID, then the links answered
CHAIN_INVALID; contents that pass are those the bytes spell.
The bytes that are read as entry or monitor contents: those of section 11.4 and no others.
The counts of a chain: the entries visited by following links up to one without a link, and the longest path of links of
the scope that arrives at an entry. -/
def Obligations.ContentChecks : Prop :=
  (∀ (raw : RawEntry) (c : EntryContents), readContents raw = some c ↔ raw =
     { pos := match c.pos with | .ain n => BitVec.ofNat 8 n.val | .temp => 16 | .vmid => 17 | .zero => 18
       neg := match c.neg with | .ain n => BitVec.ofNat 8 n.val | .ground => 16
       gain := match c.gain with | .x1 => 0 | .x4 => 1 | .x16 => 2
       settle := BitVec.ofNat 8 c.settle.val
       avg := match c.avg with | .n1 => 0 | .n2 => 1 | .n4 => 2 | .n8 => 3
       dest := BitVec.ofNat 8 c.dest.val
       trigger := match c.trigger with
         | .off => 0x00 | .timer k => BitVec.ofNat 8 (0x10 + k.val) | .pin k => BitVec.ofNat 8 (0x20 + k.val)
       cls := BitVec.ofNat 8 c.cls.val
       link := match c.link with | none => 0xFF | some l => BitVec.ofNat 8 l.val
       notice := if c.notice = true then 1 else 0 }) ∧
  (∀ (raw : RawMonitor) (c : MonitorContents), readMonitorContents raw = some c ↔ raw =
     { slot := BitVec.ofNat 8 c.slot.val, low := c.low, high := c.high, hyst := BitVec.ofNat 16 c.hyst.val
       persist := match c.persist with | .p1 => 1 | .p2 => 2 | .p3 => 3 | .p4 => 4
       edge := match c.edge with | .enterAbove => 0 | .enterBelow => 1 | .leaveInside => 2 | .anyChange => 3
       action := match c.action with | .notify => 0 | .notifyAndTrigger _ => 1
       target := match c.action with | .notify => 0xFF | .notifyAndTrigger e => BitVec.ofNat 8 e.val }) ∧
  (∀ (s : State) (sc : Scope), LinkLaw s →
     (∀ l, (s.entry l).state = .scoped sc → ∃ rest, s.chainFrom 32 (some l) = l :: rest ∧ s.followsLinks l rest) ∧
     (∀ e, (∃ path, path.length = s.backwardCount sc 32 e ∧ s.arrivesBy sc e path) ∧
       ∀ path, s.arrivesBy sc e path → path.length ≤ s.backwardCount sc 32 e)) ∧
  ∀ (s : State) (sc : Scope) (e : EntryId) (raw : RawEntry),
    (readContents raw = none → s.checkContents sc e raw = .error .invalid) ∧
    ∀ c, readContents raw = some c →
      ((∃ n, c.neg = .ain n ∧ (c.pos = .ain n ∨ c.pos = .temp ∨ c.pos = .vmid ∨ c.pos = .zero)) ∨
          (c.gain ≠ .x1 ∧ c.neg = .ground) → s.checkContents sc e raw = .error .invalid) ∧
      (¬((∃ n, c.neg = .ain n ∧ (c.pos = .ain n ∨ c.pos = .temp ∨ c.pos = .vmid ∨ c.pos = .zero)) ∨
          (c.gain ≠ .x1 ∧ c.neg = .ground)) →
        (c.link = none → s.backwardCount sc 32 e ≤ 7 → s.checkContents sc e raw = .ok c) ∧
        (∀ l, c.link = some l →
          ((s.entry l).state ≠ .scoped sc ∨ l = e ∨ e ∈ s.chainFrom 32 (some l) ∨
              8 < (s.chainFrom 32 (some l)).length + 1 + s.backwardCount sc 32 e →
            s.checkContents sc e raw = .error .chainInvalid) ∧
          ((s.entry l).state = .scoped sc → l ≠ e → e ∉ s.chainFrom 32 (some l) →
              (s.chainFrom 32 (some l)).length + 1 + s.backwardCount sc 32 e ≤ 8 →
            s.checkContents sc e raw = .ok c)))

/-- WRITE_ENTRY by its checks in order: contents that pass replace the old ones, the counters stay, the waiting ticket is
discarded, and the owner that subscribes to LOSS is told. -/
def Obligations.WriteEntryCommand : Prop :=
  ∀ (s : State) (p : Port) (tag : Byte) (raw : RawEntry), Serves s p →
    (∀ e : Byte, 32 ≤ e.toNat → exec (.writeEntry p tag e raw) s = .next (s.answered p ⟨tag, 0x11, .invalid, []⟩)) ∧
    ∀ e : EntryId,
      ((s.entry e).state ≠ .ownedBy p → exec (.writeEntry p tag (BitVec.ofNat 8 e.val) raw) s =
        .next (s.answered p ⟨tag, 0x11, .denied, []⟩)) ∧
      (∀ st, (s.entry e).state = .ownedBy p → s.checkContents (.own p) e raw = .error st →
        exec (.writeEntry p tag (BitVec.ofNat 8 e.val) raw) s = .next (s.answered p ⟨tag, 0x11, st, []⟩)) ∧
      (∀ c, (s.entry e).state = .ownedBy p → s.checkContents (.own p) e raw = .ok c →
        ∃ t, exec (.writeEntry p tag (BitVec.ofNat 8 e.val) raw) s = .next t ∧
          t = { s with entries := t.entries, queue := t.queue, ports := t.ports } ∧
          t.entry e = { s.entry e with contents := c, revision := (s.entry e).revision + 1 } ∧
          (∀ x, x ≠ e → t.entry x = s.entry x) ∧
          t.queue = s.queue.filter (fun k => k.entry ≠ e) ∧
          Answered s t p ⟨tag, 0x11, .ok, [(s.entry e).revision + 1]⟩ ∧
          (∀ q, q ≠ p → t.port q = s.port q) ∧
          (t.port p).events =
            if (∃ k ∈ s.queue, k.entry = e) ∧ (s.port p).subs.loss = true then
              enqueue (s.port p).events (.discarded e .edited) s.timebase
            else (s.port p).events)

/-- RELEASE_ENTRY by its checks in order: the release procedure with notices to the owner. -/
def Obligations.ReleaseEntryCommand : Prop :=
  ∀ (s : State) (p : Port) (tag : Byte), Serves s p →
    (∀ e : Byte, 32 ≤ e.toNat → exec (.releaseEntry p tag e) s = .next (s.answered p ⟨tag, 0x13, .invalid, []⟩)) ∧
    ∀ e : EntryId,
      ((s.entry e).state ≠ .ownedBy p → exec (.releaseEntry p tag (BitVec.ofNat 8 e.val)) s =
        .next (s.answered p ⟨tag, 0x13, .denied, []⟩)) ∧
      ((s.entry e).state = .ownedBy p → LinkLaw s →
        ∃ t, exec (.releaseEntry p tag (BitVec.ofNat 8 e.val)) s = .next t ∧
          t = { s with entries := t.entries, monitors := t.monitors, queue := t.queue, ports := t.ports } ∧
          t.entry e = .free ((s.entry e).revision + 1) ∧
          (∀ x, x ≠ e → t.entry x =
            if (s.entry x).state = .ownedBy p ∧ (s.entry x).contents.link = some e then
              { s.entry x with contents := { (s.entry x).contents with link := none } }
            else s.entry x) ∧
          (∀ m, t.monitor m =
            if (s.monitor m).state = .ownedBy p ∧ (s.monitor m).contents.action = .notifyAndTrigger e then
              { s.monitor m with contents := { (s.monitor m).contents with action := .notify } }
            else s.monitor m) ∧
          t.queue = s.queue.filter (fun k => k.entry ≠ e) ∧
          Answered s t p ⟨tag, 0x13, .ok, [(s.entry e).revision + 1]⟩ ∧
          (∀ q, q ≠ p → t.port q = s.port q) ∧
          (t.port p).events =
            ((List.finRange 12).filter fun m => (s.monitor m).state = .ownedBy p ∧
              (s.monitor m).contents.action = .notifyAndTrigger e ∧ (s.port p).subs.monitor = true).foldl
              (fun q m => enqueue q (.monitor m .retargeted (BitVec.ofNat 16 e.val)) s.timebase)
              (if (∃ k ∈ s.queue, k.entry = e) ∧ (s.port p).subs.loss = true then
                enqueue (s.port p).events (.discarded e .released) s.timebase
              else (s.port p).events))

/-! ### Triggers and the Dispatch Queue -/

/-- The decision on a trigger for an entry, by the five steps in their order. -/
def Obligations.TriggerDecision : Prop :=
  ∀ (s : State) (e : EntryId) (o : Origin),
    ((s.entry e).state.inScope = false → s.trigger e o = (s, .notAdmitted)) ∧
    ((s.entry e).state.inScope = true →
      (∀ k, s.ticketOf e = some k → s.trigger e o =
        (s.setEntry e { s.entry e with overruns := satInc (s.entry e).overruns, overrunPending := true },
          .coalesced k.number (satInc (s.entry e).overruns))) ∧
      (s.ticketOf e = none →
        (∀ p, o = .port p → 6 ≤ s.waiting p → s.trigger e o = (s, .quota)) ∧
        ((∀ p, o = .port p → s.waiting p < 6) → 24 ≤ s.queue.length →
          (∀ p, o = .port p → s.trigger e o = (s, .full)) ∧
          ((∀ p, o ≠ .port p) → s.trigger e o =
            ((s.setEntry e { s.entry e with drops := satInc (s.entry e).drops }).raise (.dropped e)
              (s.noticeSet (s.entry e).state (·.loss)), .full))) ∧
        ((∀ p, o = .port p → s.waiting p < 6) → s.queue.length < 24 →
          s.trigger e o =
            ({ s with
                queue := s.queue ++ [⟨e, o, (s.entry e).contents.cls, s.arrival, s.timebase⟩]
                arrival := s.arrival + 1 }, .admitted s.arrival))))

/-- REQUEST of an entry the port may request, with room, while the converter is at work: a ticket is appended, and the
answer is its arrival number and the queue depth.
REQUEST while the converter is IDLE: the ticket is dispatched at once, the copy is the entry's as it stands, and the
depth answered is 0. -/
def Obligations.RequestAdmitted : Prop :=
  (∀ (s : State) (p : Port) (tag : Byte) (e : EntryId), Serves s p →
     (s.entry e).state = .ownedBy p ∨ (s.entry e).state = .shared →
     s.ticketOf e = none → s.waiting p < 6 → s.queue.length < 24 → s.converter ≠ .idle →
       exec (.request p tag (BitVec.ofNat 8 e.val)) s =
         .next (({ s with
           queue := s.queue ++ [⟨e, .port p, (s.entry e).contents.cls, s.arrival, s.timebase⟩]
           arrival := s.arrival + 1 } : State).answered p
             ⟨tag, 0x18, .ok, be16 s.arrival ++ [BitVec.ofNat 8 (s.queue.length + 1)]⟩)) ∧
  (∀ (s : State) (p : Port) (tag : Byte) (e : EntryId) (sc : Scope), Serves s p →
     (s.entry e).state = .scoped sc → sc = .own p ∨ sc = .common → QueueLaw s → s.converter = .idle →
       exec (.request p tag (BitVec.ofNat 8 e.val)) s =
         .next (({ s with
           arrival := s.arrival + 1
           converter := .settling
             { entry := e, pos := (s.entry e).contents.pos, neg := (s.entry e).contents.neg,
               gain := (s.entry e).contents.gain, settle := (s.entry e).contents.settle,
               avg := (s.entry e).contents.avg, dest := (s.entry e).contents.dest,
               link := (s.entry e).contents.link, notice := (s.entry e).contents.notice,
               revision := (s.entry e).revision, scope := sc, position := 1 }
           work := some ((8 + 8 * (s.entry e).contents.settle.val) * clockPeriod s.clock.active) } : State).answered p
             ⟨tag, 0x18, .ok, be16 s.arrival ++ [0]⟩))

/-- The other answers of REQUEST: INVALID, DENIED, COALESCED, QUOTA and QUEUE_FULL. -/
def Obligations.RequestOtherwise : Prop :=
  ∀ (s : State) (p : Port) (tag : Byte), Serves s p → QueueLaw s →
    (∀ e : Byte, 32 ≤ e.toNat → exec (.request p tag e) s = .next (s.answered p ⟨tag, 0x18, .invalid, []⟩)) ∧
    ∀ e : EntryId,
      ((s.entry e).state.inScope = false → exec (.request p tag (BitVec.ofNat 8 e.val)) s =
        .next (s.answered p ⟨tag, 0x18, .invalid, []⟩)) ∧
      (∀ q, q ≠ p → (s.entry e).state = .ownedBy q → exec (.request p tag (BitVec.ofNat 8 e.val)) s =
        .next (s.answered p ⟨tag, 0x18, .denied, []⟩)) ∧
      ((s.entry e).state = .ownedBy p ∨ (s.entry e).state = .shared →
        (∀ k, s.ticketOf e = some k → exec (.request p tag (BitVec.ofNat 8 e.val)) s =
          .next ((s.setEntry e { s.entry e with
            overruns := satInc (s.entry e).overruns, overrunPending := true }).answered p
              ⟨tag, 0x18, .coalesced, be16 k.number ++ [satInc (s.entry e).overruns]⟩)) ∧
        (s.ticketOf e = none → s.waiting p = 6 → exec (.request p tag (BitVec.ofNat 8 e.val)) s =
          .next (s.answered p ⟨tag, 0x18, .quota, [6]⟩)) ∧
        (s.ticketOf e = none → s.waiting p < 6 → s.queue.length = 24 →
          exec (.request p tag (BitVec.ofNat 8 e.val)) s = .next (s.answered p ⟨tag, 0x18, .queueFull, [24]⟩)))

/-- CANCEL by its checks in order. -/
def Obligations.CancelCommand : Prop :=
  ∀ (s : State) (p : Port) (tag : Byte), Serves s p →
    (∀ e : Byte, 32 ≤ e.toNat → exec (.cancel p tag e) s = .next (s.answered p ⟨tag, 0x19, .invalid, []⟩)) ∧
    ∀ e : EntryId,
      (∀ q, q ≠ p → (s.entry e).state = .ownedBy q → exec (.cancel p tag (BitVec.ofNat 8 e.val)) s =
        .next (s.answered p ⟨tag, 0x19, .denied, []⟩)) ∧
      ((∀ q, (s.entry e).state = .ownedBy q → q = p) →
        (s.ticketOf e = none → exec (.cancel p tag (BitVec.ofNat 8 e.val)) s =
          .next (s.answered p ⟨tag, 0x19, .noData, []⟩)) ∧
        (∀ k, s.ticketOf e = some k →
          ((s.entry e).state = .shared → k.origin ≠ .port p → exec (.cancel p tag (BitVec.ofNat 8 e.val)) s =
            .next (s.answered p ⟨tag, 0x19, .denied, []⟩)) ∧
          ((s.entry e).state = .shared → k.origin = .port p → exec (.cancel p tag (BitVec.ofNat 8 e.val)) s =
            .next (({ s with queue := s.queue.filter fun x => x.entry ≠ e } : State).answered p
              ⟨tag, 0x19, .ok, be16 k.number⟩)) ∧
          ((s.entry e).state = .ownedBy p → exec (.cancel p tag (BitVec.ofNat 8 e.val)) s =
            .next (({ s with queue := s.queue.filter fun x => x.entry ≠ e } : State).answered p
              ⟨tag, 0x19, .ok, be16 k.number⟩))))

/-- TIMER_EXPIRY of a running timer whose next expiry the timebase has reached: the timer re-arms one period later, every
entry in a scope that names the timer is triggered in ascending index, and then the Arbiter is consulted. Any other
TIMER_EXPIRY changes nothing (log 3). -/
def Obligations.TimerExpiryCommand : Prop :=
  ∀ (s : State) (k : TimerId), s.resetHeld = false →
    ((s.timer k).run = .running s.timebase →
      exec (.timerExpiry k) s = .next
        (((((List.finRange 32).filter fun e => (s.entry e).state.inScope && (s.entry e).contents.trigger == .timer k).foldl
          (fun u e => (u.trigger e (.timer k)).1)
          (s.setTimer k ⟨(s.timer k).period,
            .running (s.timebase + BitVec.ofNat 32 ((s.timer k).period.toNat * 100))⟩))).consult)) ∧
    ((s.timer k).run ≠ .running s.timebase → exec (.timerExpiry k) s = .next s)

/-- PIN_EDGE and PIN_INITIAL_LEVEL: the first level that has held 250 ns (20 counts of 12.5 ns) from reset release on is recorded
without an edge; a new level that has held 250 ns since the last was accepted is recorded and, when the pin's mode lists the
edge, triggers the entries that name the pin in ascending index. Anything else changes nothing (log 3, log 19). -/
def Obligations.PinCommands : Prop :=
  ∀ (s : State) (k : PinId) (l : Level), s.resetHeld = false →
    ((s.pin k).since < 20 → exec (.pinInitialLevel k l) s = .next s ∧ exec (.pinEdge k l) s = .next s) ∧
    ((s.pin k).level = none → exec (.pinEdge k l) s = .next s ∧
      (20 ≤ (s.pin k).since → exec (.pinInitialLevel k l) s = .next (s.setPin k ⟨(s.pin k).mode, some l, 0⟩))) ∧
    (∀ old, (s.pin k).level = some old →
      exec (.pinInitialLevel k l) s = .next s ∧
      (old = l → exec (.pinEdge k l) s = .next s) ∧
      (old ≠ l → 20 ≤ (s.pin k).since →
        ((s.pin k).mode = .both ∨ ((s.pin k).mode = .rising ∧ l = .high) ∨ ((s.pin k).mode = .falling ∧ l = .low) →
          exec (.pinEdge k l) s = .next
            (((((List.finRange 32).filter fun e =>
                (s.entry e).state.inScope && (s.entry e).contents.trigger == .pin k).foldl
              (fun u e => (u.trigger e (.pin k)).1) (s.setPin k ⟨(s.pin k).mode, some l, 0⟩))).consult)) ∧
        ((s.pin k).mode = .off ∨ ((s.pin k).mode = .rising ∧ l = .low) ∨ ((s.pin k).mode = .falling ∧ l = .high) →
          exec (.pinEdge k l) s = .next (s.setPin k ⟨(s.pin k).mode, some l, 0⟩))))

/-- The Arbiter's choice: the highest effective class, and the ticket standing earliest among equals.
The effective class: the class plus the full aging periods waited, capped at 3.
A consultation: the choice is dispatched while the converter is IDLE, and nothing happens otherwise. -/
def Obligations.ArbiterChoiceAndClass : Prop :=
  (∀ s : State,
     (s.converter ≠ .idle → s.consult = s) ∧ (s.queue = [] → s.consult = s) ∧
     (∀ k sc, s.converter = .idle → choose s.aging s.timebase s.queue = some k →
       (s.entry k.entry).state = .scoped sc → s.consult = s.dispatched k sc)) ∧
  (∀ (aging : BitVec 8) (now : Time) (q : List Ticket),
     (q = [] → choose aging now q = none) ∧
       (q ≠ [] → ∃ front t back, q = front ++ t :: back ∧ choose aging now q = some t ∧
         (∀ u ∈ front, effectiveClass aging now u < effectiveClass aging now t) ∧
         (∀ u ∈ back, effectiveClass aging now u ≤ effectiveClass aging now t))) ∧
  (∀ (now : Time) (t : Ticket),
     effectiveClass 0 now t = t.cls.val ∧
       ∀ aging : BitVec 8, aging ≠ 0 →
         effectiveClass aging now t = min 3 (t.cls.val + (now - t.time).toNat / (aging.toNat * 1000)) ∧
           (t.cls = 3 → effectiveClass aging now t = 3))

/-! ### The converter -/

/-- END_OF_SETTLING, END_OF_SAMPLE: the stages of a conversion, when the periods are counted out, on EXTERNAL by CLKIN edge
by edge (log 4, log 5); before that, at any other stage of the converter, with no reference above ground, and while the reset is held
(log 11), they change nothing (log 3), and neither do COMPLETION and CALIBRATION_END. How offset and gain enter a code is free
(log 8).
The period of the conversion clock: 8 MHz and 32 MHz over the divider, in counts of 12.5 ns, and CLKIN over the
divider, in rising edges of CLKIN. -/
def Obligations.ConversionStages : Prop :=
  (∀ s : State, s.resetHeld = false →
     (s.work = some 0 →
       (∀ c, s.converter = .settling c → exec .endOfSettling s = .next { s with
         converter := .sampling c 0 0 false, work := some (18 * clockPeriod s.clock.active) }) ∧
       (∀ c taken sum full x, s.converter = .sampling c taken sum full → 0 < x.vref → taken + 1 < avgCount c.avg →
         exec (.endOfSample x) s = .next { s with
           converter := .sampling c (taken + 1) (sum + sampleCode s.calibration c x)
             (full || isFullScale c (sampleCode s.calibration c x))
           work := some (18 * clockPeriod s.clock.active) })) ∧
     (∀ x found, s.work ≠ some 0 →
       exec .endOfSettling s = .next s ∧ exec (.endOfSample x) s = .next s ∧ exec (.completion x) s = .next s ∧
         exec (.calibrationEnd found) s = .next s)) ∧
  (∀ (s : State) (x : Analog) (found : Calibration),
     (s.resetHeld = true → exec .endOfSettling s = .next s ∧ exec (.endOfSample x) s = .next s ∧
       exec (.completion x) s = .next s ∧ exec (.calibrationEnd found) s = .next s) ∧
     ((∀ c, s.converter ≠ .settling c) → exec .endOfSettling s = .next s) ∧
     ((∀ c taken sum full, s.converter = .sampling c taken sum full → avgCount c.avg ≤ taken + 1) →
       exec (.endOfSample x) s = .next s) ∧
     ((∀ c taken sum full, s.converter = .sampling c taken sum full → taken + 1 < avgCount c.avg) →
       exec (.completion x) s = .next s) ∧
     (x.vref = 0 → exec (.endOfSample x) s = .next s ∧ exec (.completion x) s = .next s) ∧
     (s.converter ≠ .calibrating → exec (.calibrationEnd found) s = .next s)) ∧
  clockPeriod ⟨.internal, .d1⟩ = 10 ∧ clockPeriod ⟨.internal, .d2⟩ = 20 ∧ clockPeriod ⟨.internal, .d4⟩ = 40 ∧
  clockPeriod ⟨.internal, .d8⟩ = 80 ∧ clockPeriod ⟨.multiplied, .d2⟩ = 5 ∧
  clockPeriod ⟨.multiplied, .d4⟩ = 10 ∧ clockPeriod ⟨.multiplied, .d8⟩ = 20 ∧
  clockPeriod ⟨.external, .d1⟩ = 1 ∧ clockPeriod ⟨.external, .d2⟩ = 2 ∧
  clockPeriod ⟨.external, .d4⟩ = 4 ∧ clockPeriod ⟨.external, .d8⟩ = 8

/-- The sample code: the nominal formula of the conversion's kind for every input; a nominal code at or beyond an end of the
kind's range gives that end, and any other takes the offset and gain in use, by a free function, and the clamp (log 8); a code
at either end is full-scale.
The value of a conversion: the sum of its codes over their number, rounded toward minus infinity, in the range of the
codes. -/
def Obligations.CodesAndValue : Prop :=
  (∀ (cal : Option Calibration) (c : Copy) (x : Analog), 0 < x.vref →
     (c.neg = .ground →
       let v := match c.pos with | .ain n => x.ain.get n | .temp => x.temp | .vmid => x.vmid | .zero => x.zero
       nominalCode c x = (16384 * v) / (x.vref : Int) ∧
       ((x.vref : Int) ≤ v → sampleCode cal c x = 16383) ∧ (v ≤ 0 → sampleCode cal c x = 0) ∧
       (16383 ≤ nominalCode c x → sampleCode cal c x = 16383) ∧ (nominalCode c x ≤ 0 → sampleCode cal c x = 0) ∧
       (0 < nominalCode c x → nominalCode c x < 16383 →
         sampleCode cal c x = max 0 (min 16383 (Config.calibrated cal (nominalCode c x)))) ∧
       0 ≤ sampleCode cal c x ∧ sampleCode cal c x ≤ 16383 ∧
       (isFullScale c (sampleCode cal c x) = true ↔ sampleCode cal c x = 0 ∨ sampleCode cal c x = 16383)) ∧
     (∀ k n, c.pos = .ain k → c.neg = .ain n →
       let v := (match c.gain with | .x1 => 1 | .x4 => 4 | .x16 => 16) * (x.ain.get k - x.ain.get n)
       nominalCode c x = (8192 * v) / (x.vref : Int) ∧
       ((x.vref : Int) ≤ v → sampleCode cal c x = 8191) ∧ (v ≤ -(x.vref : Int) → sampleCode cal c x = -8192) ∧
       (8191 ≤ nominalCode c x → sampleCode cal c x = 8191) ∧ (nominalCode c x ≤ -8192 → sampleCode cal c x = -8192) ∧
       (-8192 < nominalCode c x → nominalCode c x < 8191 →
         sampleCode cal c x = max (-8192) (min 8191 (Config.calibrated cal (nominalCode c x)))) ∧
       -8192 ≤ sampleCode cal c x ∧ sampleCode cal c x ≤ 8191 ∧
       (isFullScale c (sampleCode cal c x) = true ↔ sampleCode cal c x = -8192 ∨ sampleCode cal c x = 8191))) ∧
  (∀ (c : Copy) (codes : List Int), codes.length = avgCount c.avg → (∀ x ∈ codes, lowCode c ≤ x ∧ x ≤ highCode c) →
     (avgCount c.avg : Int) * (resultValue codes.sum c.avg).toInt ≤ codes.sum ∧
       codes.sum < (avgCount c.avg : Int) * ((resultValue codes.sum c.avg).toInt + 1) ∧
       lowCode c ≤ (resultValue codes.sum c.avg).toInt ∧ (resultValue codes.sum c.avg).toInt ≤ highCode c)

/-- COMPLETION: the last sample ends, and the destination slot takes the whole new record, RETIRED when the entry's
revision is no longer the captured one, with the entry's overrun pending taken otherwise; no other slot changes, and no
entry but in its overrun and drop counts. It comes about when the periods are counted out (log 4, log 5).
A completion as its three steps: the result is handed to the Result Store, and then the chain is decided.
What the Result Store does with a result: the slot is written and a current result makes the entry's overrun pending NO; a
current result of a copy with notice ON raises COMPLETION to the entry's notice set; then every monitor in a scope that
watches the slot evaluates, in ascending index.
What an evaluation does: the monitor's evaluation state changes, and a crossing that matches the edge mode raises MONITOR to
the monitor's notice set and then the trigger of its action. -/
def Obligations.CompletionCommand : Prop :=
  (∀ (s : State) (c : Copy) (taken : Nat) (sum : Int) (full : Bool) (x : Analog), s.resetHeld = false →
     s.work = some 0 →
     s.converter = .sampling c taken sum full → 0 < x.vref → taken + 1 = avgCount c.avg →
     ∃ t, exec (.completion x) s = .next t ∧
       t.slotAt c.dest =
         { value := resultValue (sum + sampleCode s.calibration c x) c.avg
           sequence := (s.slotAt c.dest).sequence + 1
           timestamp := s.timebase
           source := c.entry
           revision := c.revision
           valid := true
           overrange := full || isFullScale c (sampleCode s.calibration c x)
           overrun := decide ((s.entry c.entry).revision = c.revision) && (s.entry c.entry).overrunPending
           retired := decide ((s.entry c.entry).revision ≠ c.revision) } ∧
       (∀ i, i ≠ c.dest → t.slotAt i = s.slotAt i) ∧
       (∀ e, t.entry e = { s.entry e with
         overruns := (t.entry e).overruns, drops := (t.entry e).drops
         overrunPending := (t.entry e).overrunPending })) ∧
  (∀ (s : State) (c : Copy) (taken : Nat) (sum : Int) (full : Bool) (x : Analog), s.resetHeld = false →
     s.work = some 0 →
     s.converter = .sampling c taken sum full → 0 < x.vref → taken + 1 = avgCount c.avg →
     exec (.completion x) s = .next ((s.deliver c (resultValue (sum + sampleCode s.calibration c x) c.avg)
       (full || isFullScale c (sampleCode s.calibration c x))).decideChain c)) ∧
  (∀ (s : State) (c : Copy) (v : BitVec 16) (overrange : Bool),
     let current := decide ((s.entry c.entry).revision = c.revision)
     let written := (s.setSlot c.dest
       { value := v, sequence := (s.slotAt c.dest).sequence + 1, timestamp := s.timebase, source := c.entry,
         revision := c.revision, valid := true, overrange := overrange,
         overrun := current && (s.entry c.entry).overrunPending, retired := !current }).setEntry c.entry
       { s.entry c.entry with overrunPending := !current && (s.entry c.entry).overrunPending }
     let told := if current = true ∧ c.notice = true then
         written.raise (.completion c.entry c.dest ((s.slotAt c.dest).sequence + 1) v)
           (s.noticeSet (s.entry c.entry).state (·.completion))
       else written
     s.deliver c v overrange = (List.finRange 12).foldl (fun u m =>
       if (u.monitor m).state.inScope = true ∧ (u.monitor m).contents.slot = c.dest then u.evaluateOne c.dest v m else u)
       told) ∧
  (∀ (s : State) (m : MonId) (i : SlotId) (v : BitVec 16), (s.monitor m).state.inScope = true →
     (s.monitor m).contents.slot = i →
     let t := s.setMonitor m (evaluate (s.monitor m) v.toInt).1
     ((evaluate (s.monitor m) v.toInt).2 = none → s.evaluateOne i v m = t) ∧
     (∀ old new, (evaluate (s.monitor m) v.toInt).2 = some (old, new) →
       let edge := (s.monitor m).contents.edge
       let matching := edge = .anyChange ∨ edge = .enterAbove ∧ new = .above ∨ edge = .enterBelow ∧ new = .below ∨
         edge = .leaveInside ∧ old = .inside
       let told := t.raise (.monitor m (.zone new) v) (s.noticeSet (s.monitor m).state (·.monitor))
       (¬matching → s.evaluateOne i v m = t) ∧
       (matching → (s.monitor m).contents.action = .notify → s.evaluateOne i v m = told) ∧
       (∀ e, matching → (s.monitor m).contents.action = .notifyAndTrigger e →
         s.evaluateOne i v m = (told.trigger e (.monitor m)).1)))

/-- The chain after a completion: it continues to the copy's link when the result is current, the link stands and the
linked entry is in the copy's scope, up to the eighth link; a stale revision or the ninth link raises CHAIN_BROKEN when the
linked entry is in the scope; otherwise it ends silently.
The end of the converter's work: HELD, with acquisition beginning, when draining is noted, and otherwise IDLE, with the
Arbiter consulted. -/
def Obligations.ChainDecision : Prop :=
  (∀ s : State,
     (∀ r, s.clock.phase = .draining r → s.workEnds = s.endDraining r) ∧
     (s.clock.phase = .none → s.workEnds = ({ s with converter := .idle, work := none } : State).consult)) ∧
  ∀ (s : State) (c : Copy),
    (c.link = none → s.decideChain c = s.workEnds) ∧
    ∀ l, c.link = some l →
      ((s.entry c.entry).revision = c.revision → (s.entry c.entry).contents.link = some l →
        (s.entry l).state = .scoped c.scope →
          (c.position < 8 → s.decideChain c = { s with
            converter := .settling
              { entry := l, pos := (s.entry l).contents.pos, neg := (s.entry l).contents.neg,
                gain := (s.entry l).contents.gain, settle := (s.entry l).contents.settle,
                avg := (s.entry l).contents.avg, dest := (s.entry l).contents.dest,
                link := (s.entry l).contents.link, notice := (s.entry l).contents.notice,
                revision := (s.entry l).revision, scope := c.scope, position := c.position + 1 }
            work := some ((8 + 8 * (s.entry l).contents.settle.val) * clockPeriod s.clock.active) }) ∧
          (8 ≤ c.position → s.decideChain c =
            (s.raise (.discarded l .chainBroken) (s.noticeSet (.scoped c.scope) (·.loss))).workEnds)) ∧
      ((s.entry c.entry).revision ≠ c.revision →
        ((s.entry l).state = .scoped c.scope → s.decideChain c =
          (s.raise (.discarded l .chainBroken) (s.noticeSet (.scoped c.scope) (·.loss))).workEnds) ∧
        ((s.entry l).state ≠ .scoped c.scope → s.decideChain c = s.workEnds)) ∧
      ((s.entry c.entry).revision = c.revision →
        (s.entry c.entry).contents.link ≠ some l ∨ (s.entry l).state ≠ .scoped c.scope →
          s.decideChain c = s.workEnds)

/-- CALIBRATION_END, when the periods are counted out (log 4, log 5): the offset and gain found
replace those in use; the converter is IDLE with an empty queue, dispatches the Arbiter's choice with a copy of all its
entry's fields, or, when draining is noted, goes on with the switch. -/
def Obligations.CalibrationEndCommand : Prop :=
  ∀ (s : State) (found : Calibration), s.resetHeld = false → QueueLaw s →
    s.work = some 0 → s.converter = .calibrating →
    (s.clock.phase = .none → s.queue = [] → exec (.calibrationEnd found) s = .next { s with
      calibration := some found, converter := .idle, work := none }) ∧
    (s.clock.phase = .none → ∀ k, choose s.aging s.timebase s.queue = some k →
      ∃ sc, (s.entry k.entry).state = .scoped sc ∧
        exec (.calibrationEnd found) s = .next (({ s with calibration := some found } : State).dispatched k sc)) ∧
    (∀ r, s.clock.phase = .draining r → exec (.calibrationEnd found) s =
      .next (({ s with calibration := some found } : State).endDraining r))

/-! ### The sampling clock -/

/-- Adoption of CLOCK_SET: nothing when the request equals the active clock; otherwise a switch begins, and an IDLE
converter ends draining at once.
The end of draining: the converter is HELD and acquisition begins, by the table of R89.
The successful end of a switch: the request is the active clock, a LOCKED loop that is no longer the source is stopped, the
measured frequency is kept for EXTERNAL alone, the converter calibrates on the new clock, and CLOCK DONE goes to the attached
ports that subscribe to CLOCK.
The failed end: the active clock stays, the converter is IDLE, the Arbiter is consulted, and CLOCK FAILED is raised. -/
def Obligations.ClockSwitchBeginsAndAcquires : Prop :=
  (∀ (s : State) (r : ClockSetting),
     (r = s.clock.active → s.startSwitch r = s) ∧
     (r ≠ s.clock.active → s.converter ≠ .idle →
       s.startSwitch r = { s with clock := { s.clock with phase := .draining r } }) ∧
     (r ≠ s.clock.active → s.converter = .idle →
       s.startSwitch r = ({ s with clock := { s.clock with phase := .draining r } } : State).endDraining r)) ∧
  (∀ (s : State) (r : ClockSetting),
     let u : State := { s with converter := .held, work := none, clock := { s.clock with phase := .acquiring r } }
     (r.mode = s.clock.active.mode → r.mode ≠ .external → s.endDraining r = u.switchDone r) ∧
     (r.mode = .external → s.clock.active.mode = .external → ∀ edges, s.clock.measured = some edges →
       (16 * 256 * dividerCount r.divider < edges → s.endDraining r = u.switchFailed r .tooFast) ∧
       (edges ≤ 16 * 256 * dividerCount r.divider → s.endDraining r = u.switchDone r)) ∧
     (r.mode = .internal → s.clock.active.mode ≠ .internal → s.endDraining r = u.switchDone r) ∧
     (r.mode = .multiplied → s.clock.active.mode ≠ .multiplied → s.endDraining r =
       { u with clock := { u.clock with deadline := some (s.timebase + 500), loop := .starting } }) ∧
     (r.mode = .external → s.clock.active.mode ≠ .external → s.endDraining r =
       { u with clock := { u.clock with deadline := some (s.timebase + 2000), run := none } })) ∧
  (∀ (u : State) (r : ClockSetting),
     let t := u.switchDone r
     t = { u with
       clock := ⟨r, .none, none, if r.mode = .external then u.clock.measured else none,
         if r.mode ≠ .multiplied ∧ u.clock.loop = .locked then .stopped else u.clock.loop, none⟩
       converter := .calibrating
       work := some (4096 * clockPeriod r)
       ports := t.ports } ∧
     ∀ q, t.port q = (u.port q).receive (u.port q).subs.clock (.clock r .done) u.timebase) ∧
  (∀ (u : State) (r : ClockSetting) (cause : SwitchCause),
     u.switchFailed r cause = (({ u with
       clock := { u.clock with phase := .none, deadline := none, run := none }, converter := .idle, work := none } : State).consult).raise
         (.clock r (.failed cause)) (u.subscribed (·.clock)))

/-- LOCK_REPORT while the loop is being acquired: the request is active, the loop locked, the converter calibrates on the
new clock, and CLOCK DONE goes to the attached ports that subscribe to CLOCK. A report at any other time changes nothing. -/
def Obligations.LockReportCommand : Prop :=
  ∀ s : State, s.resetHeld = false →
    (∀ r, s.clock.phase = .acquiring r → r.mode = .multiplied → s.clock.loop = .starting →
      ∃ t, exec .lockReport s = .next t ∧
        t = { s with
          clock := ⟨r, .none, none, none, .locked, none⟩, converter := .calibrating
          work := some (4096 * clockPeriod r)
          ports := t.ports } ∧
        ∀ q, t.port q = (s.port q).receive (s.port q).subs.clock (.clock r .done) s.timebase) ∧
    (s.clock.loop ≠ .starting ∨ (∀ r, s.clock.phase ≠ .acquiring r) → exec .lockReport s = .next s)

/-- QUALIFICATION: when a run of CLKIN has lasted 256 µs while EXTERNAL is acquired from another mode, its rising edges are the
measured frequency, of 4 to 40 MHz: the switch succeeds with it, or fails TOO_FAST with the old clock active and the converter
IDLE, from where the Arbiter dispatches a waiting ticket. With no such run, or none of that many edges,
nothing changes (log 3). The run is held in counts of 12.5 ns, and an edge at the end of its 256 µs is not counted (log 16). -/
def Obligations.QualificationCommand : Prop :=
  (∀ (s : State) (r : ClockSetting) (x : ClkinRun), s.resetHeld = false → ClockLaw s →
    s.clock.phase = .acquiring r → r.mode = .external → s.clock.run = some x → x.length = 256 * 80 →
    (256 * 4 ≤ x.edges ∧ x.edges ≤ 256 * 40) ∧
    (x.edges ≤ 4096 * dividerCount r.divider →
      ∃ t, exec (.qualification x.edges) s = .next t ∧
        t = { s with
          clock := ⟨r, .none, none, some x.edges, .stopped, none⟩, converter := .calibrating
          work := some (4096 * dividerCount r.divider)
          ports := t.ports } ∧
        ∀ q, t.port q = (s.port q).receive (s.port q).subs.clock (.clock r .done) s.timebase) ∧
    (4096 * dividerCount r.divider < x.edges → s.queue = [] →
      ∃ t, exec (.qualification x.edges) s = .next t ∧
        t = { s with
          clock := { s.clock with phase := .none, deadline := none, run := none }, converter := .idle, work := none
          ports := t.ports } ∧
        ∀ q, t.port q = (s.port q).receive (s.port q).subs.clock (.clock r (.failed .tooFast)) s.timebase) ∧
    (4096 * dividerCount r.divider < x.edges →
      let idle : State := { s with
        clock := { s.clock with phase := .none, deadline := none, run := none }, converter := .idle, work := none }
      exec (.qualification x.edges) s =
        .next (idle.consult.raise (.clock r (.failed .tooFast)) (s.subscribed (·.clock))) ∧
      ∀ k sc, choose s.aging s.timebase s.queue = some k → (s.entry k.entry).state = .scoped sc →
        idle.consult = idle.dispatched k sc)) ∧
  (∀ (s : State) (edges : Nat), s.resetHeld = false →
    (∀ r x, s.clock.phase = .acquiring r → r.mode = .external → s.clock.run = some x →
      x.length ≠ 256 * 80 ∨ x.edges ≠ edges) →
    exec (.qualification edges) s = .next s)

/-- ACQUISITION_DEADLINE_EXPIRY: when the timebase is at the deadline the switch fails, with LOCK_TIMEOUT and the loop
stopped for MULTIPLIED, with NO_CLOCK for EXTERNAL; the old clock stays active and the waiting tickets are dispatched from. -/
def Obligations.AcquisitionDeadlineCommand : Prop :=
  ∀ (s : State) (r : ClockSetting), s.resetHeld = false → s.clock.phase = .acquiring r →
    s.clock.deadline = some s.timebase → r.mode ≠ .internal →
      exec .acquisitionDeadlineExpiry s = .next
        (((({ s with
            clock := ⟨s.clock.active, .none, none, s.clock.measured,
              if r.mode = .multiplied then .stopped else s.clock.loop, none⟩
            converter := .idle, work := none } : State).consult).raise
          (.clock r (.failed (if r.mode = .multiplied then .lockTimeout else .noClock))) (s.subscribed (·.clock))))

/-! ### The Result Store -/

/-- READ_SLOTS: the arguments are checked, the records are captured at once, the first chunk of up to 4 is returned, and
records left over from an earlier capture are abandoned and counted.
CONTINUE: up to 4 of the captured records leave the buffer and are returned as they were captured; an empty buffer is
NO_DATA.
The bytes of a slot record in their order. -/
def Obligations.SnapshotCommands : Prop :=
  (∀ r : SlotRecord, slotBytes r =
     be16 r.value ++ be16 r.sequence ++ be32 r.timestamp ++ [BitVec.ofNat 8 r.source.val, r.revision,
       BitVec.ofNat 8 ((if r.valid = true then 1 else 0) + (if r.overrange = true then 2 else 0) +
         (if r.overrun = true then 4 else 0) + (if r.retired = true then 8 else 0))]) ∧
  (∀ (s : State) (p : Port) (tag first count : Byte), Serves s p →
     (¬(1 ≤ count.toNat ∧ count.toNat ≤ 16 ∧ first.toNat ≤ 63 ∧ first.toNat + count.toNat - 1 ≤ 63) →
       exec (.readSlots p tag first count) s = .next (s.answered p ⟨tag, 0x20, .invalid, []⟩)) ∧
     (1 ≤ count.toNat → count.toNat ≤ 16 → first.toNat + count.toNat ≤ 64 →
       ∃ captured : List (SlotId × SlotRecord),
         captured.map (·.1.val) = (List.range count.toNat).map (first.toNat + ·) ∧
         (∀ r ∈ captured, r.2 = s.slotAt r.1) ∧
         exec (.readSlots p tag first count) s = .next (s.setPort p
           { (s.port p).answered s.timebase ⟨tag, 0x20, .ok, [first, BitVec.ofNat 8 (count.toNat - 4)] ++
               (captured.take 4).flatMap fun r => slotBytes r.2⟩ with
             snapshot := captured.drop 4
             abandons := if (s.port p).snapshot = [] then (s.port p).abandons else satInc (s.port p).abandons }))) ∧
  (∀ (s : State) (p : Port) (tag : Byte), Serves s p →
     ((s.port p).snapshot = [] → exec (.continueSlots p tag) s = .next (s.answered p ⟨tag, 0x21, .noData, []⟩)) ∧
     (∀ r rest, (s.port p).snapshot = r :: rest →
       exec (.continueSlots p tag) s = .next (s.setPort p
         { (s.port p).answered s.timebase ⟨tag, 0x21, .ok,
             [BitVec.ofNat 8 r.1.val, BitVec.ofNat 8 ((r :: rest).length - 4)] ++
               ((r :: rest).take 4).flatMap fun x => slotBytes x.2⟩ with
           snapshot := (r :: rest).drop 4 })))

/-! ### Limit monitors -/

/-- CLAIM_MONITOR, WRITE_MONITOR and RELEASE_MONITOR of a monitor the port may act on: revision raised, evaluation state
UNKNOWN, and the crossing count zeroed by a claim and a release but kept by a write.
The refusals of the monitor commands, in the order of their checks. -/
def Obligations.ChangeMonitorCommands : Prop :=
  (∀ (s : State) (p : Port) (tag : Byte) (m : MonId), Serves s p →
     ((s.monitor m).state = .free → s.monitorCount p < 6 →
       exec (.claimMonitor p tag (BitVec.ofNat 8 m.val)) s =
         .next ((s.setMonitor m
           { contents := (s.monitor m).contents, state := .ownedBy p, revision := (s.monitor m).revision + 1,
             zone := none, candidate := none, crossings := 0 } : State).answered p
               ⟨tag, 0x28, .ok, [(s.monitor m).revision + 1]⟩)) ∧
     (∀ raw c, (s.monitor m).state = .ownedBy p → readMonitorContents raw = some c → c.low.toInt ≤ c.high.toInt →
       (∀ e, c.action = .notifyAndTrigger e → (s.entry e).state = .ownedBy p) →
       exec (.writeMonitor p tag (BitVec.ofNat 8 m.val) raw) s =
         .next ((s.setMonitor m
           { contents := c, state := .ownedBy p, revision := (s.monitor m).revision + 1,
             zone := none, candidate := none, crossings := (s.monitor m).crossings } : State).answered p
               ⟨tag, 0x29, .ok, [(s.monitor m).revision + 1]⟩)) ∧
     ((s.monitor m).state = .ownedBy p →
       exec (.releaseMonitor p tag (BitVec.ofNat 8 m.val)) s =
         .next ((s.setMonitor m (.free ((s.monitor m).revision + 1))).answered p
           ⟨tag, 0x2B, .ok, [(s.monitor m).revision + 1]⟩))) ∧
  (∀ (s : State) (p : Port) (tag : Byte) (raw : RawMonitor), Serves s p →
     (∀ m : Byte, 12 ≤ m.toNat →
       exec (.claimMonitor p tag m) s = .next (s.answered p ⟨tag, 0x28, .invalid, []⟩) ∧
       exec (.writeMonitor p tag m raw) s = .next (s.answered p ⟨tag, 0x29, .invalid, []⟩) ∧
       exec (.releaseMonitor p tag m) s = .next (s.answered p ⟨tag, 0x2B, .invalid, []⟩)) ∧
     ∀ m : MonId,
       ((s.monitor m).state ≠ .free → exec (.claimMonitor p tag (BitVec.ofNat 8 m.val)) s =
         .next (s.answered p ⟨tag, 0x28, .busy, []⟩)) ∧
       ((s.monitor m).state = .free → 6 ≤ s.monitorCount p → exec (.claimMonitor p tag (BitVec.ofNat 8 m.val)) s =
         .next (s.answered p ⟨tag, 0x28, .quota, []⟩)) ∧
       ((s.monitor m).state ≠ .ownedBy p →
         exec (.writeMonitor p tag (BitVec.ofNat 8 m.val) raw) s = .next (s.answered p ⟨tag, 0x29, .denied, []⟩) ∧
         exec (.releaseMonitor p tag (BitVec.ofNat 8 m.val)) s = .next (s.answered p ⟨tag, 0x2B, .denied, []⟩)) ∧
       ((s.monitor m).state = .ownedBy p →
         (readMonitorContents raw = none ∨ ∃ c, readMonitorContents raw = some c ∧ (c.high.toInt < c.low.toInt ∨
           ∃ e, c.action = .notifyAndTrigger e ∧ (s.entry e).state ≠ .ownedBy p)) →
         exec (.writeMonitor p tag (BitVec.ofNat 8 m.val) raw) s = .next (s.answered p ⟨tag, 0x29, .invalid, []⟩)))

/-- The evaluation of a written value by a monitor: the raw zone with the hysteresis on the side the monitor is on, and the
persistence that accepts a change of zone. -/
def Obligations.MonitorEvaluation : Prop :=
  ∀ (m : Monitor) (v : Int), m.contents.low.toInt ≤ m.contents.high.toInt →
    (rawZone m.contents (some .above) v =
      if m.contents.high.toInt - (m.contents.hyst.val : Int) ≤ v then .above
      else if v < m.contents.low.toInt then .below else .inside) ∧
    (rawZone m.contents (some .below) v =
      if v ≤ m.contents.low.toInt + (m.contents.hyst.val : Int) then .below
      else if m.contents.high.toInt < v then .above else .inside) ∧
    (∀ z, z = none ∨ z = some .inside → rawZone m.contents z v =
      if v < m.contents.low.toInt then .below else if m.contents.high.toInt < v then .above else .inside) ∧
    (m.zone = none →
      evaluate m v = ({ m with zone := some (rawZone m.contents none v), candidate := none }, none)) ∧
    (∀ old, m.zone = some old →
      (rawZone m.contents (some old) v = old → evaluate m v = ({ m with candidate := none }, none)) ∧
      (∀ new, rawZone m.contents (some old) v = new → new ≠ old →
        ∀ n, (∀ k, m.candidate = some (new, k) → n = k + 1) → ((∀ k, m.candidate ≠ some (new, k)) → n = 1) →
          (n = persistCount m.contents.persist → evaluate m v =
            ({ m with zone := some new, candidate := none, crossings := satInc m.crossings }, some (old, new))) ∧
          (n ≠ persistCount m.contents.persist → evaluate m v = ({ m with candidate := some (new, n) }, none))))

/-! ### Proposals -/

/-- PROPOSE by its steps in order: BUSY with the open identifier, BUSY for a CLOCK_SET during a switch, the subject checks,
and nothing changed by a refusal.
The subject checks: the states and ranges a subject must have. -/
def Obligations.ProposeChecks : Prop :=
  (∀ (s : State) (p : Port) (tag : Byte) (raw : RawSubject), Serves s p →
     (∀ pr, s.proposal = some pr → exec (.propose p tag raw) s = .next (s.answered p ⟨tag, 0x38, .busy, [pr.id]⟩)) ∧
     (s.proposal = none →
       (∀ mode divider, raw = .clockSet mode divider → s.clock.phase ≠ .none →
         exec (.propose p tag raw) s = .next (s.answered p ⟨tag, 0x38, .busy, []⟩)) ∧
       ((∀ mode divider, raw = .clockSet mode divider → s.clock.phase = .none) →
         ∀ st, s.readSubject raw = .error st →
           exec (.propose p tag raw) s = .next (s.answered p ⟨tag, 0x38, st, []⟩)))) ∧
  (∀ s : State,
     (∀ (e : EntryId) (raw : RawEntry) c,
       (s.entry e).state = .free ∨ (s.entry e).state = .shared → s.checkContents .common e raw = .ok c →
         s.readSubject (.entrySet (BitVec.ofNat 8 e.val) raw) = .ok (.entrySet e c)) ∧
     (∀ (e : EntryId) (raw : RawEntry) st,
       (s.entry e).state = .free ∨ (s.entry e).state = .shared → s.checkContents .common e raw = .error st →
         s.readSubject (.entrySet (BitVec.ofNat 8 e.val) raw) = .error st) ∧
     (∀ (e : EntryId) (raw : RawEntry), (s.entry e).state ≠ .free → (s.entry e).state ≠ .shared →
       s.readSubject (.entrySet (BitVec.ofNat 8 e.val) raw) = .error .invalid) ∧
     (∀ e : EntryId, ((s.entry e).state = .shared →
         s.readSubject (.entryRemove (BitVec.ofNat 8 e.val)) = .ok (.entryRemove e)) ∧
       ((s.entry e).state ≠ .shared →
         s.readSubject (.entryRemove (BitVec.ofNat 8 e.val)) = .error .invalid)) ∧
     (∀ m : MonId, ((s.monitor m).state = .shared →
         s.readSubject (.monitorRemove (BitVec.ofNat 8 m.val)) = .ok (.monitorRemove m)) ∧
       ((s.monitor m).state ≠ .shared →
         s.readSubject (.monitorRemove (BitVec.ofNat 8 m.val)) = .error .invalid)) ∧
     (∀ (k : Byte) (period : BitVec 16) (run : Byte),
       (∀ i : TimerId, k = BitVec.ofNat 8 i.val → period ≠ 0 →
         (run = 0 → s.readSubject (.timerSet k period run) = .ok (.timerSet i period false)) ∧
         (run = 1 → s.readSubject (.timerSet k period run) = .ok (.timerSet i period true))) ∧
       (4 ≤ k.toNat ∨ period = 0 ∨ 2 ≤ run.toNat →
         s.readSubject (.timerSet k period run) = .error .invalid)) ∧
     (∀ (b : Byte) (raw : RawEntry), 32 ≤ b.toNat → s.readSubject (.entrySet b raw) = .error .invalid ∧
       s.readSubject (.entryRemove b) = .error .invalid) ∧
     (∀ (b : Byte) (raw : RawMonitor), 12 ≤ b.toNat → s.readSubject (.monitorSet b raw) = .error .invalid ∧
       s.readSubject (.monitorRemove b) = .error .invalid) ∧
     (∀ (m : MonId) (raw : RawMonitor),
       ((s.monitor m).state ≠ .free → (s.monitor m).state ≠ .shared →
         s.readSubject (.monitorSet (BitVec.ofNat 8 m.val) raw) = .error .invalid) ∧
       (readMonitorContents raw = none → s.readSubject (.monitorSet (BitVec.ofNat 8 m.val) raw) = .error .invalid) ∧
       (∀ c, readMonitorContents raw = some c →
         (c.high.toInt < c.low.toInt ∨ (∃ e, c.action = .notifyAndTrigger e ∧ (s.entry e).state ≠ .shared) →
           s.readSubject (.monitorSet (BitVec.ofNat 8 m.val) raw) = .error .invalid) ∧
         ((s.monitor m).state = .free ∨ (s.monitor m).state = .shared → c.low.toInt ≤ c.high.toInt →
           (∀ e, c.action = .notifyAndTrigger e → (s.entry e).state = .shared) →
           s.readSubject (.monitorSet (BitVec.ofNat 8 m.val) raw) = .ok (.monitorSet m c)))) ∧
     (∀ k edge : Byte, 4 ≤ k.toNat ∨ 4 ≤ edge.toNat → s.readSubject (.pinSet k edge) = .error .invalid) ∧
     (∀ (k : PinId) (mode : EdgeMode), s.readSubject (.pinSet (BitVec.ofNat 8 k.val)
       (match mode with | .off => 0 | .rising => 1 | .falling => 2 | .both => 3)) = .ok (.pinSet k mode)) ∧
     (∀ mode divider : Byte,
       (2 < mode.toNat ∨ divider ∉ [1, 2, 4, 8] ∨ (mode = 1 ∧ divider = 1) →
         s.readSubject (.clockSet mode divider) = .error .invalid) ∧
       (mode.toNat ≤ 2 → divider ∈ [1, 2, 4, 8] → ¬(mode = 1 ∧ divider = 1) →
         ∃ r, s.readSubject (.clockSet mode divider) = .ok (.clockSet r) ∧
           clockModeByte r.mode = mode ∧ dividerByte r.divider = divider)) ∧
     (∀ period, s.readSubject (.agingSet period) = .ok (.agingSet period)) ∧
     (∀ window, window ≠ 0 → s.readSubject (.windowSet window) = .ok (.windowSet window)) ∧
     s.readSubject (.windowSet 0) = .error .invalid)

/-- PROPOSE of a subject that passes its checks while another port is attached: the proposal opens with every other attached
port as voter, a FREE subject is RESERVED, the voters get PROPOSAL OPENED, and the author the identifier and the deadline. -/
def Obligations.ProposeOpens : Prop :=
  ∀ (s : State) (p q : Port) (tag : Byte) (raw : RawSubject) (subject : Subject), Serves s p →
    s.proposal = none → q ≠ p → (s.port q).attached = true →
    (∀ mode divider, raw = .clockSet mode divider → s.clock.phase = .none) → s.readSubject raw = .ok subject →
    ∃ t pr, exec (.propose p tag raw) s = .next t ∧
      t = { s with
        proposal := some pr, nextId := s.nextId + 1, entries := t.entries, monitors := t.monitors, ports := t.ports } ∧
      pr.id = s.nextId ∧ pr.author = p ∧ pr.subject = subject ∧
      pr.deadline = s.timebase + BitVec.ofNat 32 (s.window.toNat * 1000) ∧
      (∀ v, pr.required.get v = true ↔ v ≠ p ∧ (s.port v).attached = true) ∧ (∀ v, pr.accepted.get v = false) ∧
      (∀ e c, subject = .entrySet e c → (s.entry e).state = .free →
        t.entry e = { s.entry e with state := .reserved }) ∧
      (∀ e, (∀ c, subject ≠ .entrySet e c) ∨ (s.entry e).state ≠ .free → t.entry e = s.entry e) ∧
      (∀ m c, subject = .monitorSet m c → (s.monitor m).state = .free →
        t.monitor m = { s.monitor m with state := .reserved }) ∧
      (∀ m, (∀ c, subject ≠ .monitorSet m c) ∨ (s.monitor m).state ≠ .free → t.monitor m = s.monitor m) ∧
      t.port p = (s.port p).answered s.timebase
        ⟨tag, 0x38, .ok, [pr.id, 0x00, portSetByte pr.required] ++ be32 pr.deadline⟩ ∧
      ∀ v, v ≠ p → t.port v = (s.port v).receive true (.proposal pr.id .opened p) s.timebase

/-- PROPOSE of a subject that passes its checks with no other port attached: it is adopted at once, the identifier advances,
and no PROPOSAL notice is raised. The installation acts after the frame's end (which it does not read). -/
def Obligations.ProposeAdoptsAlone : Prop :=
  ∀ (s : State) (p : Port) (tag : Byte) (raw : RawSubject) (subject : Subject), Serves s p →
    s.proposal = none → (∀ q, q ≠ p → (s.port q).attached = false) →
    (∀ mode divider, raw = .clockSet mode divider → s.clock.phase = .none) → s.readSubject raw = .ok subject →
    ∃ t, exec (.propose p tag raw) s = .next t ∧
      t = { (({ s with nextId := s.nextId + 1 } : State).install subject) with ports := t.ports } ∧
      Answered s t p ⟨tag, 0x38, .ok,
        [s.nextId, 0x01, 0x00] ++ be32 (s.timebase + BitVec.ofNat 32 (s.window.toNat * 1000))⟩ ∧
      ∀ q, (t.port q).events = ((({ s with nextId := s.nextId + 1 } : State).install subject).port q).events

/-- The installation of an adopted subject, setting by setting and item by item.
Adoption of ENTRY_REMOVE: the release procedure in the common scope, with notices to the ports subscribed. -/
def Obligations.AdoptionInstalls : Prop :=
  (∀ s : State,
     (∀ e c, (s.entry e).state = .free ∨ (s.entry e).state = .reserved → s.install (.entrySet e c) =
       s.setEntry e { contents := c, state := .shared, revision := (s.entry e).revision + 1, overruns := 0, drops := 0,
                      overrunPending := false }) ∧
     (∀ e c, (s.entry e).state = .shared →
       let t := s.install (.entrySet e c)
       t = { s with entries := t.entries, queue := t.queue, ports := t.ports } ∧
       t.entry e = { s.entry e with contents := c, revision := (s.entry e).revision + 1 } ∧
       (∀ x, x ≠ e → t.entry x = s.entry x) ∧ t.queue = s.queue.filter (fun k => k.entry ≠ e) ∧
       ∀ q, t.port q = (s.port q).receive (decide (∃ k ∈ s.queue, k.entry = e) && (s.port q).subs.loss)
         (.discarded e .edited) s.timebase) ∧
     (∀ m c, (s.monitor m).state = .free ∨ (s.monitor m).state = .reserved → s.install (.monitorSet m c) =
       s.setMonitor m { contents := c, state := .shared, revision := (s.monitor m).revision + 1, zone := none,
                        candidate := none, crossings := 0 }) ∧
     (∀ m c, (s.monitor m).state = .shared → s.install (.monitorSet m c) =
       s.setMonitor m { contents := c, state := .shared, revision := (s.monitor m).revision + 1, zone := none,
                        candidate := none, crossings := (s.monitor m).crossings }) ∧
     (∀ m, s.install (.monitorRemove m) = s.setMonitor m (.free ((s.monitor m).revision + 1))) ∧
     (∀ k period, s.install (.timerSet k period true) =
       s.setTimer k ⟨period, .running (s.timebase + BitVec.ofNat 32 (period.toNat * 100))⟩) ∧
     (∀ k period, s.install (.timerSet k period false) = s.setTimer k ⟨period, .stopped⟩) ∧
     (∀ k edge, s.install (.pinSet k edge) = s.setPin k ⟨edge, (s.pin k).level, (s.pin k).since⟩) ∧
     (∀ r, s.install (.clockSet r) = s.startSwitch r) ∧
     (∀ period, s.install (.agingSet period) = { s with aging := period }) ∧
     (∀ window, s.install (.windowSet window) = { s with window := window })) ∧
  (∀ (s : State) (e : EntryId), (s.entry e).state = .shared → LinkLaw s →
     let t := s.install (.entryRemove e)
     t = { s with entries := t.entries, monitors := t.monitors, queue := t.queue, ports := t.ports } ∧
     t.entry e = .free ((s.entry e).revision + 1) ∧
     (∀ x, x ≠ e → t.entry x = if (s.entry x).state = .shared ∧ (s.entry x).contents.link = some e then
         { s.entry x with contents := { (s.entry x).contents with link := none } } else s.entry x) ∧
     (∀ m, t.monitor m =
       if (s.monitor m).state = .shared ∧ (s.monitor m).contents.action = .notifyAndTrigger e then
         { s.monitor m with contents := { (s.monitor m).contents with action := .notify } } else s.monitor m) ∧
     t.queue = s.queue.filter (fun k => k.entry ≠ e) ∧
     ∀ q, t.port q = { s.port q with
       events := if (s.port q).attached = true then
           ((List.finRange 12).filter fun m => (s.monitor m).state = .shared ∧
             (s.monitor m).contents.action = .notifyAndTrigger e ∧ (s.port q).subs.monitor = true).foldl
             (fun l m => enqueue l (.monitor m .retargeted (BitVec.ofNat 16 e.val)) s.timebase)
             (if (∃ k ∈ s.queue, k.entry = e) ∧ (s.port q).subs.loss = true then
               enqueue (s.port q).events (.discarded e .released) s.timebase
             else (s.port q).events)
         else (s.port q).events })

/-- VOTE by its checks in order.
The number outstanding: the required voters that are not in the accepted set; none exactly when the two sets are equal on the
required voters. -/
def Obligations.VoteCommand : Prop :=
  (∀ pr : Proposal,
     pr.outstanding = (([.a, .b, .c] : List Port).filter fun q => pr.required.get q && !pr.accepted.get q).length ∧
     (pr.outstanding = 0 ↔ ∀ q, pr.required.get q = true → pr.accepted.get q = true)) ∧
  ∀ (s : State) (p : Port) (tag id choice : Byte), Serves s p →
    (choice ≠ 1 → choice ≠ 2 →
      exec (.vote p tag id choice) s = .next (s.answered p ⟨tag, 0x39, .invalid, []⟩)) ∧
    (choice = 1 ∨ choice = 2 →
      ((∀ pr, s.proposal = some pr → pr.id ≠ id) →
        exec (.vote p tag id choice) s = .next (s.answered p ⟨tag, 0x39, .noProposal, []⟩)) ∧
      ∀ pr, s.proposal = some pr → pr.id = id →
        (pr.required.get p = false →
          exec (.vote p tag id choice) s = .next (s.answered p ⟨tag, 0x39, .denied, []⟩)) ∧
        (pr.required.get p = true → pr.accepted.get p = true →
          exec (.vote p tag id choice) s = .next (s.answered p ⟨tag, 0x39, .already, []⟩)) ∧
        (pr.required.get p = true → pr.accepted.get p = false →
          let u := s.setPort p { s.port p with frame := .idle, gap := 0 }
          let accepting := { pr with accepted := pr.accepted.set p true }
          (choice = 2 → exec (.vote p tag id choice) s = .next
            (((u.close pr .refused).place p
              ⟨tag, 0x39, .ok, [id, 0x02, BitVec.ofNat 8 pr.outstanding]⟩).restart p)) ∧
          (choice = 1 → accepting.outstanding = 0 → exec (.vote p tag id choice) s = .next
            (((u.close accepting .adopted).place p ⟨tag, 0x39, .ok, [id, 0x01, 0]⟩).restart p)) ∧
          (choice = 1 → accepting.outstanding ≠ 0 → exec (.vote p tag id choice) s = .next
            (({ s with proposal := some accepting } : State).answered p
              ⟨tag, 0x39, .ok, [id, 0x00, BitVec.ofNat 8 accepting.outstanding]⟩))))

/-- WITHDRAW by its checks in order.
PROPOSAL_EXPIRY: when the timebase is at the open proposal's deadline, it closes EXPIRED; at any other time, and with no
proposal open, it changes nothing (the model's choice, log 3). -/
def Obligations.WithdrawAndExpiryCommands : Prop :=
  (∀ (s : State) (p : Port) (tag id : Byte), Serves s p →
     ((∀ pr, s.proposal = some pr → pr.id ≠ id) →
       exec (.withdraw p tag id) s = .next (s.answered p ⟨tag, 0x3A, .noProposal, []⟩)) ∧
     ∀ pr, s.proposal = some pr → pr.id = id →
       (pr.author ≠ p → exec (.withdraw p tag id) s = .next (s.answered p ⟨tag, 0x3A, .denied, []⟩)) ∧
       (pr.author = p → exec (.withdraw p tag id) s = .next
         ((((s.setPort p { s.port p with frame := .idle, gap := 0 }).close pr .withdrawn).place p
           ⟨tag, 0x3A, .ok, [id]⟩).restart p))) ∧
  (∀ (s : State) (pr : Proposal), s.resetHeld = false → s.proposal = some pr →
     (pr.deadline = s.timebase → exec .proposalExpiry s = .next (s.close pr .expired)) ∧
     (pr.deadline ≠ s.timebase → exec .proposalExpiry s = .next s)) ∧
  (∀ s : State, s.proposal = none → exec .proposalExpiry s = .next s)

/-! ### The laws of the device -/

/-- The state after reset is sound. -/
def Obligations.ResetIsSound : Prop :=
  Sound State.reset

/-- Every step keeps the law of the Dispatch Queue. -/
def Obligations.StepKeepsQueueLaw : Prop :=
  ∀ s t : State, QueueLaw s → step s = .next t → QueueLaw t

/-- Every step keeps the law of the ports. -/
def Obligations.StepKeepsPortLaw : Prop :=
  ∀ s t : State, LinkPortsLaw s → step s = .next t → LinkPortsLaw t

/-- Every step keeps the law of private ownership.
Every step keeps the defaults of items out of scope, the order of limits, and the monitors' candidates. -/
def Obligations.StepKeepsOwnersAndContents : Prop :=
  (∀ s t : State, OwnerLaw s → step s = .next t → OwnerLaw t) ∧
  (∀ s t : State, ContentsLaw s → step s = .next t → ContentsLaw t)

/-- Every step keeps the law of the Proposal Slot. -/
def Obligations.StepKeepsProposalLaw : Prop :=
  ∀ s t : State, ProposalLaw s → step s = .next t → ProposalLaw t

/-- Every step keeps the law of links and targets. -/
def Obligations.StepKeepsLinkLaw : Prop :=
  ∀ s t : State, LinkLaw s → ContentsLaw s → ProposalLaw s → step s = .next t → LinkLaw t

/-- Every step keeps the Sampling Clock and the converter in agreement. The converter's work is counted exactly while there is
some: in counts of 12.5 ns, and on EXTERNAL in edges of CLKIN, which come by the model's choice while no command
waits (log 4, log 5). A run of CLKIN is held only while EXTERNAL is being acquired, every period in it is of 25 to 250 ns, and
it has lasted at most 256 µs (the counts of 12.5 ns and the last edge are the model's choice, log 16). -/
def Obligations.StepKeepsClockAndConverter : Prop :=
  ∀ s t : State, ClockLaw s → ConverterLaw s → ProposalLaw s → HeldLaw s → step s = .next t →
    ClockLaw t ∧ ConverterLaw t

/-- Every step keeps the laws of the slot records and of a held reset (that nothing counts and no event acts while the reset is
held is deduced, log 11; that its ports have no gap is the model's choice, log 12). -/
def Obligations.StepKeepsSlotAndHeldLaw : Prop :=
  ∀ s t : State, step s = .next t → (SlotLaw s → SlotLaw t) ∧ (HeldLaw s → HeldLaw t)
end

