-- ==== Sys2Proof/Laws/Table.lean ====
section
/-! SUPPORT. Reading a table or a value per port after an update of it. -/

namespace Sys2Proof

/-! ### Tables -/

theorem Table.get_eq {α : Type} {n : Nat} (t : Table α n) (i : Fin n) :
    t.get i = t.cells[i.val]'(by rw [t.size]; exact i.isLt) := rfl

@[simp] theorem Table.get_set_self {α : Type} {n : Nat} (t : Table α n) (i : Fin n) (x : α) : (t.set i x).get i = x := by
  simp [Table.get_eq, Table.set]

theorem Table.get_set_of_ne {α : Type} {n : Nat} (t : Table α n) {i j : Fin n} (h : j ≠ i) (x : α) :
    (t.set i x).get j = t.get j := by
  have : i.val ≠ j.val := fun e => h (Fin.ext e.symm)
  simp [Table.get_eq, Table.set, this]

theorem Table.get_set {α : Type} {n : Nat} (t : Table α n) (i j : Fin n) (x : α) :
    (t.set i x).get j = if j = i then x else t.get j := by
  by_cases h : j = i
  · subst h; simp
  · simp [h, Table.get_set_of_ne t h]

@[simp] theorem Table.get_fill {α : Type} {n : Nat} (x : α) (i : Fin n) : (Table.fill n x).get i = x := by
  simp [Table.get_eq, Table.fill]

@[simp] theorem Table.get_map {α β : Type} {n : Nat} (f : α → β) (t : Table α n) (i : Fin n) :
    (t.map f).get i = f (t.get i) := by
  simp [Table.get_eq, Table.map]

/-- Two tables with the same items are the same table. -/
theorem Table.ext_get {α : Type} {n : Nat} {t u : Table α n} (h : ∀ i, t.get i = u.get i) : t = u := by
  rcases t with ⟨a, ha⟩
  rcases u with ⟨b, hb⟩
  have : a = b := by
    apply List.ext_getElem (by omega)
    intro i h1 h2
    simpa [Table.get_eq] using h ⟨i, by omega⟩
  subst this
  rfl

/-- An item replaced twice is as the second replacement left it. -/
@[simp] theorem Table.set_set {α : Type} {n : Nat} (t : Table α n) (i : Fin n) (x y : α) :
    (t.set i x).set i y = t.set i y := by
  apply Table.ext_get
  intro j
  by_cases h : j = i <;> simp [Table.get_set, h]

/-- An item replaced by itself leaves the table. -/
@[simp] theorem Table.set_get {α : Type} {n : Nat} (t : Table α n) (i : Fin n) : t.set i (t.get i) = t := by
  apply Table.ext_get
  intro j
  by_cases h : j = i <;> simp [Table.get_set, h]

/-- The items of a table are those read at its indices, in order. -/
theorem Table.cells_eq {α : Type} {n : Nat} (t : Table α n) : t.cells = (List.finRange n).map t.get := by
  apply List.ext_getElem
  · simp [t.size]
  · intro i h1 h2
    simp [Table.get]

/-! ### One value for each port -/

@[simp] theorem PerPort.get_set_self {α : Type} (x : PerPort α) (p : Port) (v : α) : (x.set p v).get p = v := by
  cases p <;> rfl

theorem PerPort.get_set_of_ne {α : Type} (x : PerPort α) {p q : Port} (h : q ≠ p) (v : α) :
    (x.set p v).get q = x.get q := by
  cases p <;> cases q <;> first | rfl | exact absurd rfl h

theorem PerPort.get_set {α : Type} (x : PerPort α) (p q : Port) (v : α) :
    (x.set p v).get q = if q = p then v else x.get q := by
  cases p <;> cases q <;> rfl

@[simp] theorem PerPort.set_set {α : Type} (x : PerPort α) (p : Port) (v w : α) : (x.set p v).set p w = x.set p w := by
  cases p <;> rfl

@[simp] theorem PerPort.set_get {α : Type} (x : PerPort α) (p : Port) : x.set p (x.get p) = x := by
  cases p <;> rfl

@[simp] theorem PerPort.get_mapIdx {α β : Type} (f : Port → α → β) (x : PerPort α) (p : Port) :
    (x.mapIdx f).get p = f p (x.get p) := by
  cases p <;> rfl

@[simp] theorem PerPort.get_fill {α : Type} (v : α) (p : Port) : (PerPort.fill v).get p = v := by
  cases p <;> rfl

/-- Two values per port that agree at every port are the same. -/
theorem PerPort.ext_get {α : Type} {x y : PerPort α} (h : ∀ p, x.get p = y.get p) : x = y := by
  have ha := h .a
  have hb := h .b
  have hc := h .c
  cases x; cases y
  simp only [PerPort.get] at ha hb hc
  simp [ha, hb, hc]

/-! ### Items of the state -/

namespace Machine

@[simp] theorem State.entry_setEntry_self (s : State) (e : EntryId) (x : Entry) : (s.setEntry e x).entry e = x := by
  simp [State.entry, State.setEntry]

theorem State.entry_setEntry (s : State) (e i : EntryId) (x : Entry) :
    (s.setEntry e x).entry i = if i = e then x else s.entry i := by
  simp [State.entry, State.setEntry, Table.get_set]

@[simp] theorem State.monitor_setMonitor_self (s : State) (m : MonId) (x : Monitor) :
    (s.setMonitor m x).monitor m = x := by
  simp [State.monitor, State.setMonitor]

@[simp] theorem State.setEntry_entry (s : State) (e : EntryId) : s.setEntry e (s.entry e) = s := by
  simp [State.entry, State.setEntry]

theorem State.monitor_setMonitor (s : State) (m i : MonId) (x : Monitor) :
    (s.setMonitor m x).monitor i = if i = m then x else s.monitor i := by
  simp [State.monitor, State.setMonitor, Table.get_set]

theorem State.slotAt_setSlot (s : State) (j i : SlotId) (x : SlotRecord) :
    (s.setSlot j x).slotAt i = if i = j then x else s.slotAt i := by
  simp [State.slotAt, State.setSlot, Table.get_set]

theorem State.timer_setTimer (s : State) (k i : TimerId) (x : Timer) :
    (s.setTimer k x).timer i = if i = k then x else s.timer i := by
  simp [State.timer, State.setTimer, Table.get_set]

theorem State.pin_setPin (s : State) (k i : PinId) (x : Pin) :
    (s.setPin k x).pin i = if i = k then x else s.pin i := by
  simp [State.pin, State.setPin, Table.get_set]

@[simp] theorem State.port_setPort_self (s : State) (p : Port) (x : PortState) : (s.setPort p x).port p = x := by
  simp [State.port, State.setPort]

theorem State.port_setPort (s : State) (p q : Port) (x : PortState) :
    (s.setPort p x).port q = if q = p then x else s.port q := by
  simp [State.port, State.setPort, PerPort.get_set]

@[simp] theorem State.setPort_setPort (s : State) (p : Port) (x y : PortState) :
    (s.setPort p x).setPort p y = s.setPort p y := by
  simp [State.setPort]

@[simp] theorem State.setPort_port (s : State) (p : Port) : s.setPort p (s.port p) = s := by
  simp [State.setPort, State.port]

theorem State.port_raise (s : State) (n : Notice) (who : PortSet) (p : Port) :
    (s.raise n who).port p = (s.port p).receive (who.get p) n s.timebase := by
  simp [State.port, State.raise]

theorem State.entry_removeLinks (s : State) (e i : EntryId) (st : ItemState) :
    (s.removeLinks e st).entry i =
      if (s.entry i).state = st ∧ (s.entry i).contents.link = some e then
        { s.entry i with contents := { (s.entry i).contents with link := none } } else s.entry i := by
  show (Table.map _ _).get i = _
  rw [Table.get_map]
  rfl

theorem State.monitor_freeMonitors (s : State) (p : Port) (m : MonId) :
    (s.freeMonitors p).monitor m =
      if (s.monitor m).state = .ownedBy p then .free ((s.monitor m).revision + 1) else s.monitor m := by
  show (Table.map _ _).get m = _
  rw [Table.get_map]
  rfl

end Machine

end Sys2Proof
end

