-- ==== Sys2Proof/Laws/Chains.lean ====
section
/-! SUPPORT. The two counts of R10: walks along present links forward from an entry, and paths that arrive at it. -/

namespace Sys2Proof.Machine

/-! ### Forward -/

/-- A walk that ends within `n` entries ends the same way whatever more it is allowed. -/
theorem followsLinks_of_chainFrom (s : State) (n : Nat) (l : EntryId) (h : (s.chainFrom (n + 1) (some l)).length ≤ n)
    (m : Nat) (hm : n < m) : ∃ rest, s.chainFrom m (some l) = l :: rest ∧ s.followsLinks l rest := by
  induction n generalizing l m with
  | zero => simp [State.chainFrom] at h
  | succ k ih =>
    obtain ⟨m, rfl⟩ : ∃ m', m = m' + 1 := ⟨m - 1, by omega⟩
    rcases hl : (s.entry l).contents.link with _ | x
    · refine ⟨[], ?_, hl⟩
      cases m <;> simp [State.chainFrom, hl]
    · have hx : (s.chainFrom (k + 1) (some x)).length ≤ k := by
        rw [State.chainFrom, hl, List.length_cons] at h
        omega
      obtain ⟨rest, h1, h2⟩ := ih x hx m (by omega)
      exact ⟨x :: rest, by rw [State.chainFrom, hl, h1], hl, h2⟩

/-- Under the law of links a walk from an entry in a scope ends at an entry without a link. -/
theorem LinkLaw.forward {s : State} (h : LinkLaw s) {sc : Scope} {l : EntryId} (hl : (s.entry l).state = .scoped sc) :
    ∃ rest, s.chainFrom 32 (some l) = l :: rest ∧ s.followsLinks l rest :=
  followsLinks_of_chainFrom s 8 l (h.length l sc hl) 32 (by decide)

/-! ### Backward -/

theorem foldl_max (l : List Nat) (a : Nat) :
    (∀ x ∈ l, x ≤ l.foldl max a) ∧ a ≤ l.foldl max a ∧ (l.foldl max a = a ∨ l.foldl max a ∈ l) := by
  induction l generalizing a with
  | nil => simp
  | cons y ys ih =>
    obtain ⟨h1, h2, h3⟩ := ih (max a y)
    rw [List.foldl_cons]
    refine ⟨fun x hx => ?_, by omega, ?_⟩
    · rcases List.mem_cons.1 hx with rfl | hx
      · omega
      · exact h1 x hx
    · rcases h3 with h3 | h3
      · rcases Nat.le_total a y with h | h
        · right
          rw [h3, Nat.max_eq_right h]
          exact List.mem_cons_self ..
        · left
          rw [h3, Nat.max_eq_left h]
      · right
        exact List.mem_cons_of_mem _ h3

theorem mem_linkersOf {s : State} {sc : Scope} {e x : EntryId} :
    x ∈ s.linkersOf sc e ↔ (s.entry x).state = .scoped sc ∧ (s.entry x).contents.link = some e := by
  simp [State.linkersOf]

/-- The backward count bounds every path of at most `fuel` entries that arrives. -/
theorem length_le_backwardCount {s : State} {sc : Scope} {path : List EntryId} {e : EntryId} {fuel : Nat}
    (h : s.arrivesBy sc e path) (hf : path.length ≤ fuel) : path.length ≤ s.backwardCount sc fuel e := by
  induction path generalizing e fuel with
  | nil => exact Nat.zero_le _
  | cons x rest ih =>
    obtain ⟨fuel, rfl⟩ : ∃ f, fuel = f + 1 := ⟨fuel - 1, by simp at hf; omega⟩
    have hr := ih h.2.2 (by simpa using hf)
    have hm := (foldl_max ((s.linkersOf sc e).map fun x => s.backwardCount sc fuel x + 1) 0).1 _
      (List.mem_map_of_mem (mem_linkersOf.2 ⟨h.1, h.2.1⟩))
    rw [State.backwardCount, maxOf, List.length_cons]
    omega

/-- Some path is as long as the backward count. -/
theorem exists_path_of_backwardCount (s : State) (sc : Scope) (fuel : Nat) (e : EntryId) :
    ∃ path, path.length = s.backwardCount sc fuel e ∧ s.arrivesBy sc e path := by
  induction fuel generalizing e with
  | zero => exact ⟨[], rfl, trivial⟩
  | succ fuel ih =>
    rcases (foldl_max ((s.linkersOf sc e).map fun x => s.backwardCount sc fuel x + 1) 0).2.2 with h | h
    · exact ⟨[], by rw [State.backwardCount, maxOf, h]; rfl, trivial⟩
    · obtain ⟨x, hx, hc⟩ := List.mem_map.1 h
      obtain ⟨path, h1, h2⟩ := ih x
      refine ⟨x :: path, ?_, (mem_linkersOf.1 hx).1, (mem_linkersOf.1 hx).2, h2⟩
      rw [State.backwardCount, maxOf, ← hc, List.length_cons, h1]

/-- The walk from the start of an arriving path passes through all of it. -/
theorem exists_start_of_arrivesBy {s : State} {sc : Scope} {path : List EntryId} {e : EntryId}
    (h : s.arrivesBy sc e path) (m : Nat) : ∃ y, (path ≠ [] → (s.entry y).state = .scoped sc) ∧
      path.length + (s.chainFrom m (some e)).length ≤ (s.chainFrom (m + path.length) (some y)).length := by
  induction path generalizing e m with
  | nil => exact ⟨e, fun h => absurd rfl h, by simp⟩
  | cons x rest ih =>
    obtain ⟨y, hy, hl⟩ := ih h.2.2 (m + 1)
    have hx : (s.chainFrom (m + 1) (some x)).length = (s.chainFrom m (some e)).length + 1 := by
      rw [State.chainFrom, h.2.1, List.length_cons]
    have hm : m + 1 + rest.length = m + (x :: rest).length := by rw [List.length_cons]; omega
    rw [hx, hm] at hl
    refine ⟨if rest = [] then x else y, fun _ => ?_, ?_⟩
    · split
      · exact h.1
      · exact hy (by assumption)
    · split
      · rename_i hr
        subst hr
        rw [List.length_singleton, hx]
        omega
      · rw [List.length_cons]
        rw [List.length_cons] at hl
        omega

theorem arrivesBy_take {s : State} {sc : Scope} {path : List EntryId} {e : EntryId} (h : s.arrivesBy sc e path)
    (n : Nat) : s.arrivesBy sc e (path.take n) := by
  induction path generalizing e n with
  | nil => simpa using h
  | cons x rest ih =>
    cases n with
    | zero => trivial
    | succ n => exact ⟨h.1, h.2.1, ih h.2.2 n⟩

/-- Under the law of links no path of 8 entries arrives anywhere. -/
theorem LinkLaw.length_lt_of_arrivesBy {s : State} (h : LinkLaw s) {sc : Scope} {path : List EntryId} {e : EntryId}
    (hp : s.arrivesBy sc e path) : path.length < 8 := by
  by_contra hn
  have hlen : (path.take 8).length = 8 := by rw [List.length_take]; omega
  obtain ⟨y, hy, hl⟩ := exists_start_of_arrivesBy (arrivesBy_take hp 8) 1
  have h9 := h.length y sc (hy (by intro h0; rw [h0] at hlen; cases hlen))
  rw [hlen] at hl
  simp only [State.chainFrom, List.length_cons, List.length_nil] at hl h9
  omega

/-- Under the law of links the backward count is the length of the longest path that arrives. -/
theorem LinkLaw.backward {s : State} (h : LinkLaw s) (sc : Scope) (e : EntryId) :
    (∃ path, path.length = s.backwardCount sc 32 e ∧ s.arrivesBy sc e path) ∧
      ∀ path, s.arrivesBy sc e path → path.length ≤ s.backwardCount sc 32 e :=
  ⟨exists_path_of_backwardCount s sc 32 e,
    fun _ hp => length_le_backwardCount hp (by have := h.length_lt_of_arrivesBy hp; omega)⟩

end Sys2Proof.Machine
end

