-- ==== Sys2Proof/Laws/State.lean ====
section
/-! SUPPORT. One lemma for each field of the state and each named update: what the update leaves, and what it writes. -/

namespace Sys2Proof.Machine

/-! ### setEntry -/

@[simp] theorem State.entries_setEntry (s : State) (e : EntryId) (x : Entry) : (s.setEntry e x).entries = s.entries.set e x := rfl
@[simp] theorem State.monitors_setEntry (s : State) (e : EntryId) (x : Entry) : (s.setEntry e x).monitors = s.monitors := rfl
@[simp] theorem State.monitor_setEntry (s : State) (e : EntryId) (x : Entry) (i : MonId) : (s.setEntry e x).monitor i = s.monitor i := rfl
@[simp] theorem State.slots_setEntry (s : State) (e : EntryId) (x : Entry) : (s.setEntry e x).slots = s.slots := rfl
@[simp] theorem State.slotAt_setEntry (s : State) (e : EntryId) (x : Entry) (i : SlotId) : (s.setEntry e x).slotAt i = s.slotAt i := rfl
@[simp] theorem State.timers_setEntry (s : State) (e : EntryId) (x : Entry) : (s.setEntry e x).timers = s.timers := rfl
@[simp] theorem State.timer_setEntry (s : State) (e : EntryId) (x : Entry) (i : TimerId) : (s.setEntry e x).timer i = s.timer i := rfl
@[simp] theorem State.pins_setEntry (s : State) (e : EntryId) (x : Entry) : (s.setEntry e x).pins = s.pins := rfl
@[simp] theorem State.pin_setEntry (s : State) (e : EntryId) (x : Entry) (i : PinId) : (s.setEntry e x).pin i = s.pin i := rfl
@[simp] theorem State.timebase_setEntry (s : State) (e : EntryId) (x : Entry) : (s.setEntry e x).timebase = s.timebase := rfl
@[simp] theorem State.sub_setEntry (s : State) (e : EntryId) (x : Entry) : (s.setEntry e x).sub = s.sub := rfl
@[simp] theorem State.queue_setEntry (s : State) (e : EntryId) (x : Entry) : (s.setEntry e x).queue = s.queue := rfl
@[simp] theorem State.arrival_setEntry (s : State) (e : EntryId) (x : Entry) : (s.setEntry e x).arrival = s.arrival := rfl
@[simp] theorem State.aging_setEntry (s : State) (e : EntryId) (x : Entry) : (s.setEntry e x).aging = s.aging := rfl
@[simp] theorem State.converter_setEntry (s : State) (e : EntryId) (x : Entry) : (s.setEntry e x).converter = s.converter := rfl
@[simp] theorem State.calibration_setEntry (s : State) (e : EntryId) (x : Entry) : (s.setEntry e x).calibration = s.calibration := rfl
@[simp] theorem State.work_setEntry (s : State) (e : EntryId) (x : Entry) : (s.setEntry e x).work = s.work := rfl
@[simp] theorem State.clock_setEntry (s : State) (e : EntryId) (x : Entry) : (s.setEntry e x).clock = s.clock := rfl
@[simp] theorem State.ports_setEntry (s : State) (e : EntryId) (x : Entry) : (s.setEntry e x).ports = s.ports := rfl
@[simp] theorem State.port_setEntry (s : State) (e : EntryId) (x : Entry) (i : Port) : (s.setEntry e x).port i = s.port i := rfl
@[simp] theorem State.proposal_setEntry (s : State) (e : EntryId) (x : Entry) : (s.setEntry e x).proposal = s.proposal := rfl
@[simp] theorem State.nextId_setEntry (s : State) (e : EntryId) (x : Entry) : (s.setEntry e x).nextId = s.nextId := rfl
@[simp] theorem State.window_setEntry (s : State) (e : EntryId) (x : Entry) : (s.setEntry e x).window = s.window := rfl
@[simp] theorem State.resetCause_setEntry (s : State) (e : EntryId) (x : Entry) : (s.setEntry e x).resetCause = s.resetCause := rfl
@[simp] theorem State.resetHeld_setEntry (s : State) (e : EntryId) (x : Entry) : (s.setEntry e x).resetHeld = s.resetHeld := rfl
@[simp] theorem State.fresh_setEntry (s : State) (e : EntryId) (x : Entry) : (s.setEntry e x).fresh = s.fresh := rfl
@[simp] theorem State.pending_setEntry (s : State) (e : EntryId) (x : Entry) : (s.setEntry e x).pending = s.pending := rfl

/-! ### setMonitor -/

@[simp] theorem State.entries_setMonitor (s : State) (m : MonId) (x : Monitor) : (s.setMonitor m x).entries = s.entries := rfl
@[simp] theorem State.entry_setMonitor (s : State) (m : MonId) (x : Monitor) (i : EntryId) : (s.setMonitor m x).entry i = s.entry i := rfl
@[simp] theorem State.monitors_setMonitor (s : State) (m : MonId) (x : Monitor) : (s.setMonitor m x).monitors = s.monitors.set m x := rfl
@[simp] theorem State.slots_setMonitor (s : State) (m : MonId) (x : Monitor) : (s.setMonitor m x).slots = s.slots := rfl
@[simp] theorem State.slotAt_setMonitor (s : State) (m : MonId) (x : Monitor) (i : SlotId) : (s.setMonitor m x).slotAt i = s.slotAt i := rfl
@[simp] theorem State.timers_setMonitor (s : State) (m : MonId) (x : Monitor) : (s.setMonitor m x).timers = s.timers := rfl
@[simp] theorem State.timer_setMonitor (s : State) (m : MonId) (x : Monitor) (i : TimerId) : (s.setMonitor m x).timer i = s.timer i := rfl
@[simp] theorem State.pins_setMonitor (s : State) (m : MonId) (x : Monitor) : (s.setMonitor m x).pins = s.pins := rfl
@[simp] theorem State.pin_setMonitor (s : State) (m : MonId) (x : Monitor) (i : PinId) : (s.setMonitor m x).pin i = s.pin i := rfl
@[simp] theorem State.timebase_setMonitor (s : State) (m : MonId) (x : Monitor) : (s.setMonitor m x).timebase = s.timebase := rfl
@[simp] theorem State.sub_setMonitor (s : State) (m : MonId) (x : Monitor) : (s.setMonitor m x).sub = s.sub := rfl
@[simp] theorem State.queue_setMonitor (s : State) (m : MonId) (x : Monitor) : (s.setMonitor m x).queue = s.queue := rfl
@[simp] theorem State.arrival_setMonitor (s : State) (m : MonId) (x : Monitor) : (s.setMonitor m x).arrival = s.arrival := rfl
@[simp] theorem State.aging_setMonitor (s : State) (m : MonId) (x : Monitor) : (s.setMonitor m x).aging = s.aging := rfl
@[simp] theorem State.converter_setMonitor (s : State) (m : MonId) (x : Monitor) : (s.setMonitor m x).converter = s.converter := rfl
@[simp] theorem State.calibration_setMonitor (s : State) (m : MonId) (x : Monitor) : (s.setMonitor m x).calibration = s.calibration := rfl
@[simp] theorem State.work_setMonitor (s : State) (m : MonId) (x : Monitor) : (s.setMonitor m x).work = s.work := rfl
@[simp] theorem State.clock_setMonitor (s : State) (m : MonId) (x : Monitor) : (s.setMonitor m x).clock = s.clock := rfl
@[simp] theorem State.ports_setMonitor (s : State) (m : MonId) (x : Monitor) : (s.setMonitor m x).ports = s.ports := rfl
@[simp] theorem State.port_setMonitor (s : State) (m : MonId) (x : Monitor) (i : Port) : (s.setMonitor m x).port i = s.port i := rfl
@[simp] theorem State.proposal_setMonitor (s : State) (m : MonId) (x : Monitor) : (s.setMonitor m x).proposal = s.proposal := rfl
@[simp] theorem State.nextId_setMonitor (s : State) (m : MonId) (x : Monitor) : (s.setMonitor m x).nextId = s.nextId := rfl
@[simp] theorem State.window_setMonitor (s : State) (m : MonId) (x : Monitor) : (s.setMonitor m x).window = s.window := rfl
@[simp] theorem State.resetCause_setMonitor (s : State) (m : MonId) (x : Monitor) : (s.setMonitor m x).resetCause = s.resetCause := rfl
@[simp] theorem State.resetHeld_setMonitor (s : State) (m : MonId) (x : Monitor) : (s.setMonitor m x).resetHeld = s.resetHeld := rfl
@[simp] theorem State.fresh_setMonitor (s : State) (m : MonId) (x : Monitor) : (s.setMonitor m x).fresh = s.fresh := rfl
@[simp] theorem State.pending_setMonitor (s : State) (m : MonId) (x : Monitor) : (s.setMonitor m x).pending = s.pending := rfl

/-! ### setSlot -/

@[simp] theorem State.entries_setSlot (s : State) (j : SlotId) (x : SlotRecord) : (s.setSlot j x).entries = s.entries := rfl
@[simp] theorem State.entry_setSlot (s : State) (j : SlotId) (x : SlotRecord) (i : EntryId) : (s.setSlot j x).entry i = s.entry i := rfl
@[simp] theorem State.monitors_setSlot (s : State) (j : SlotId) (x : SlotRecord) : (s.setSlot j x).monitors = s.monitors := rfl
@[simp] theorem State.monitor_setSlot (s : State) (j : SlotId) (x : SlotRecord) (i : MonId) : (s.setSlot j x).monitor i = s.monitor i := rfl
@[simp] theorem State.slots_setSlot (s : State) (j : SlotId) (x : SlotRecord) : (s.setSlot j x).slots = s.slots.set j x := rfl
@[simp] theorem State.timers_setSlot (s : State) (j : SlotId) (x : SlotRecord) : (s.setSlot j x).timers = s.timers := rfl
@[simp] theorem State.timer_setSlot (s : State) (j : SlotId) (x : SlotRecord) (i : TimerId) : (s.setSlot j x).timer i = s.timer i := rfl
@[simp] theorem State.pins_setSlot (s : State) (j : SlotId) (x : SlotRecord) : (s.setSlot j x).pins = s.pins := rfl
@[simp] theorem State.pin_setSlot (s : State) (j : SlotId) (x : SlotRecord) (i : PinId) : (s.setSlot j x).pin i = s.pin i := rfl
@[simp] theorem State.timebase_setSlot (s : State) (j : SlotId) (x : SlotRecord) : (s.setSlot j x).timebase = s.timebase := rfl
@[simp] theorem State.sub_setSlot (s : State) (j : SlotId) (x : SlotRecord) : (s.setSlot j x).sub = s.sub := rfl
@[simp] theorem State.queue_setSlot (s : State) (j : SlotId) (x : SlotRecord) : (s.setSlot j x).queue = s.queue := rfl
@[simp] theorem State.arrival_setSlot (s : State) (j : SlotId) (x : SlotRecord) : (s.setSlot j x).arrival = s.arrival := rfl
@[simp] theorem State.aging_setSlot (s : State) (j : SlotId) (x : SlotRecord) : (s.setSlot j x).aging = s.aging := rfl
@[simp] theorem State.converter_setSlot (s : State) (j : SlotId) (x : SlotRecord) : (s.setSlot j x).converter = s.converter := rfl
@[simp] theorem State.calibration_setSlot (s : State) (j : SlotId) (x : SlotRecord) : (s.setSlot j x).calibration = s.calibration := rfl
@[simp] theorem State.work_setSlot (s : State) (j : SlotId) (x : SlotRecord) : (s.setSlot j x).work = s.work := rfl
@[simp] theorem State.clock_setSlot (s : State) (j : SlotId) (x : SlotRecord) : (s.setSlot j x).clock = s.clock := rfl
@[simp] theorem State.ports_setSlot (s : State) (j : SlotId) (x : SlotRecord) : (s.setSlot j x).ports = s.ports := rfl
@[simp] theorem State.port_setSlot (s : State) (j : SlotId) (x : SlotRecord) (i : Port) : (s.setSlot j x).port i = s.port i := rfl
@[simp] theorem State.proposal_setSlot (s : State) (j : SlotId) (x : SlotRecord) : (s.setSlot j x).proposal = s.proposal := rfl
@[simp] theorem State.nextId_setSlot (s : State) (j : SlotId) (x : SlotRecord) : (s.setSlot j x).nextId = s.nextId := rfl
@[simp] theorem State.window_setSlot (s : State) (j : SlotId) (x : SlotRecord) : (s.setSlot j x).window = s.window := rfl
@[simp] theorem State.resetCause_setSlot (s : State) (j : SlotId) (x : SlotRecord) : (s.setSlot j x).resetCause = s.resetCause := rfl
@[simp] theorem State.resetHeld_setSlot (s : State) (j : SlotId) (x : SlotRecord) : (s.setSlot j x).resetHeld = s.resetHeld := rfl
@[simp] theorem State.fresh_setSlot (s : State) (j : SlotId) (x : SlotRecord) : (s.setSlot j x).fresh = s.fresh := rfl
@[simp] theorem State.pending_setSlot (s : State) (j : SlotId) (x : SlotRecord) : (s.setSlot j x).pending = s.pending := rfl

/-! ### setTimer -/

@[simp] theorem State.entries_setTimer (s : State) (k : TimerId) (x : Timer) : (s.setTimer k x).entries = s.entries := rfl
@[simp] theorem State.entry_setTimer (s : State) (k : TimerId) (x : Timer) (i : EntryId) : (s.setTimer k x).entry i = s.entry i := rfl
@[simp] theorem State.monitors_setTimer (s : State) (k : TimerId) (x : Timer) : (s.setTimer k x).monitors = s.monitors := rfl
@[simp] theorem State.monitor_setTimer (s : State) (k : TimerId) (x : Timer) (i : MonId) : (s.setTimer k x).monitor i = s.monitor i := rfl
@[simp] theorem State.slots_setTimer (s : State) (k : TimerId) (x : Timer) : (s.setTimer k x).slots = s.slots := rfl
@[simp] theorem State.slotAt_setTimer (s : State) (k : TimerId) (x : Timer) (i : SlotId) : (s.setTimer k x).slotAt i = s.slotAt i := rfl
@[simp] theorem State.timers_setTimer (s : State) (k : TimerId) (x : Timer) : (s.setTimer k x).timers = s.timers.set k x := rfl
@[simp] theorem State.pins_setTimer (s : State) (k : TimerId) (x : Timer) : (s.setTimer k x).pins = s.pins := rfl
@[simp] theorem State.pin_setTimer (s : State) (k : TimerId) (x : Timer) (i : PinId) : (s.setTimer k x).pin i = s.pin i := rfl
@[simp] theorem State.timebase_setTimer (s : State) (k : TimerId) (x : Timer) : (s.setTimer k x).timebase = s.timebase := rfl
@[simp] theorem State.sub_setTimer (s : State) (k : TimerId) (x : Timer) : (s.setTimer k x).sub = s.sub := rfl
@[simp] theorem State.queue_setTimer (s : State) (k : TimerId) (x : Timer) : (s.setTimer k x).queue = s.queue := rfl
@[simp] theorem State.arrival_setTimer (s : State) (k : TimerId) (x : Timer) : (s.setTimer k x).arrival = s.arrival := rfl
@[simp] theorem State.aging_setTimer (s : State) (k : TimerId) (x : Timer) : (s.setTimer k x).aging = s.aging := rfl
@[simp] theorem State.converter_setTimer (s : State) (k : TimerId) (x : Timer) : (s.setTimer k x).converter = s.converter := rfl
@[simp] theorem State.calibration_setTimer (s : State) (k : TimerId) (x : Timer) : (s.setTimer k x).calibration = s.calibration := rfl
@[simp] theorem State.work_setTimer (s : State) (k : TimerId) (x : Timer) : (s.setTimer k x).work = s.work := rfl
@[simp] theorem State.clock_setTimer (s : State) (k : TimerId) (x : Timer) : (s.setTimer k x).clock = s.clock := rfl
@[simp] theorem State.ports_setTimer (s : State) (k : TimerId) (x : Timer) : (s.setTimer k x).ports = s.ports := rfl
@[simp] theorem State.port_setTimer (s : State) (k : TimerId) (x : Timer) (i : Port) : (s.setTimer k x).port i = s.port i := rfl
@[simp] theorem State.proposal_setTimer (s : State) (k : TimerId) (x : Timer) : (s.setTimer k x).proposal = s.proposal := rfl
@[simp] theorem State.nextId_setTimer (s : State) (k : TimerId) (x : Timer) : (s.setTimer k x).nextId = s.nextId := rfl
@[simp] theorem State.window_setTimer (s : State) (k : TimerId) (x : Timer) : (s.setTimer k x).window = s.window := rfl
@[simp] theorem State.resetCause_setTimer (s : State) (k : TimerId) (x : Timer) : (s.setTimer k x).resetCause = s.resetCause := rfl
@[simp] theorem State.resetHeld_setTimer (s : State) (k : TimerId) (x : Timer) : (s.setTimer k x).resetHeld = s.resetHeld := rfl
@[simp] theorem State.fresh_setTimer (s : State) (k : TimerId) (x : Timer) : (s.setTimer k x).fresh = s.fresh := rfl
@[simp] theorem State.pending_setTimer (s : State) (k : TimerId) (x : Timer) : (s.setTimer k x).pending = s.pending := rfl

/-! ### setPin -/

@[simp] theorem State.entries_setPin (s : State) (k : PinId) (x : Pin) : (s.setPin k x).entries = s.entries := rfl
@[simp] theorem State.entry_setPin (s : State) (k : PinId) (x : Pin) (i : EntryId) : (s.setPin k x).entry i = s.entry i := rfl
@[simp] theorem State.monitors_setPin (s : State) (k : PinId) (x : Pin) : (s.setPin k x).monitors = s.monitors := rfl
@[simp] theorem State.monitor_setPin (s : State) (k : PinId) (x : Pin) (i : MonId) : (s.setPin k x).monitor i = s.monitor i := rfl
@[simp] theorem State.slots_setPin (s : State) (k : PinId) (x : Pin) : (s.setPin k x).slots = s.slots := rfl
@[simp] theorem State.slotAt_setPin (s : State) (k : PinId) (x : Pin) (i : SlotId) : (s.setPin k x).slotAt i = s.slotAt i := rfl
@[simp] theorem State.timers_setPin (s : State) (k : PinId) (x : Pin) : (s.setPin k x).timers = s.timers := rfl
@[simp] theorem State.timer_setPin (s : State) (k : PinId) (x : Pin) (i : TimerId) : (s.setPin k x).timer i = s.timer i := rfl
@[simp] theorem State.pins_setPin (s : State) (k : PinId) (x : Pin) : (s.setPin k x).pins = s.pins.set k x := rfl
@[simp] theorem State.timebase_setPin (s : State) (k : PinId) (x : Pin) : (s.setPin k x).timebase = s.timebase := rfl
@[simp] theorem State.sub_setPin (s : State) (k : PinId) (x : Pin) : (s.setPin k x).sub = s.sub := rfl
@[simp] theorem State.queue_setPin (s : State) (k : PinId) (x : Pin) : (s.setPin k x).queue = s.queue := rfl
@[simp] theorem State.arrival_setPin (s : State) (k : PinId) (x : Pin) : (s.setPin k x).arrival = s.arrival := rfl
@[simp] theorem State.aging_setPin (s : State) (k : PinId) (x : Pin) : (s.setPin k x).aging = s.aging := rfl
@[simp] theorem State.converter_setPin (s : State) (k : PinId) (x : Pin) : (s.setPin k x).converter = s.converter := rfl
@[simp] theorem State.calibration_setPin (s : State) (k : PinId) (x : Pin) : (s.setPin k x).calibration = s.calibration := rfl
@[simp] theorem State.work_setPin (s : State) (k : PinId) (x : Pin) : (s.setPin k x).work = s.work := rfl
@[simp] theorem State.clock_setPin (s : State) (k : PinId) (x : Pin) : (s.setPin k x).clock = s.clock := rfl
@[simp] theorem State.ports_setPin (s : State) (k : PinId) (x : Pin) : (s.setPin k x).ports = s.ports := rfl
@[simp] theorem State.port_setPin (s : State) (k : PinId) (x : Pin) (i : Port) : (s.setPin k x).port i = s.port i := rfl
@[simp] theorem State.proposal_setPin (s : State) (k : PinId) (x : Pin) : (s.setPin k x).proposal = s.proposal := rfl
@[simp] theorem State.nextId_setPin (s : State) (k : PinId) (x : Pin) : (s.setPin k x).nextId = s.nextId := rfl
@[simp] theorem State.window_setPin (s : State) (k : PinId) (x : Pin) : (s.setPin k x).window = s.window := rfl
@[simp] theorem State.resetCause_setPin (s : State) (k : PinId) (x : Pin) : (s.setPin k x).resetCause = s.resetCause := rfl
@[simp] theorem State.resetHeld_setPin (s : State) (k : PinId) (x : Pin) : (s.setPin k x).resetHeld = s.resetHeld := rfl
@[simp] theorem State.fresh_setPin (s : State) (k : PinId) (x : Pin) : (s.setPin k x).fresh = s.fresh := rfl
@[simp] theorem State.pending_setPin (s : State) (k : PinId) (x : Pin) : (s.setPin k x).pending = s.pending := rfl

/-! ### setPort -/

@[simp] theorem State.entries_setPort (s : State) (p : Port) (x : PortState) : (s.setPort p x).entries = s.entries := rfl
@[simp] theorem State.entry_setPort (s : State) (p : Port) (x : PortState) (i : EntryId) : (s.setPort p x).entry i = s.entry i := rfl
@[simp] theorem State.monitors_setPort (s : State) (p : Port) (x : PortState) : (s.setPort p x).monitors = s.monitors := rfl
@[simp] theorem State.monitor_setPort (s : State) (p : Port) (x : PortState) (i : MonId) : (s.setPort p x).monitor i = s.monitor i := rfl
@[simp] theorem State.slots_setPort (s : State) (p : Port) (x : PortState) : (s.setPort p x).slots = s.slots := rfl
@[simp] theorem State.slotAt_setPort (s : State) (p : Port) (x : PortState) (i : SlotId) : (s.setPort p x).slotAt i = s.slotAt i := rfl
@[simp] theorem State.timers_setPort (s : State) (p : Port) (x : PortState) : (s.setPort p x).timers = s.timers := rfl
@[simp] theorem State.timer_setPort (s : State) (p : Port) (x : PortState) (i : TimerId) : (s.setPort p x).timer i = s.timer i := rfl
@[simp] theorem State.pins_setPort (s : State) (p : Port) (x : PortState) : (s.setPort p x).pins = s.pins := rfl
@[simp] theorem State.pin_setPort (s : State) (p : Port) (x : PortState) (i : PinId) : (s.setPort p x).pin i = s.pin i := rfl
@[simp] theorem State.timebase_setPort (s : State) (p : Port) (x : PortState) : (s.setPort p x).timebase = s.timebase := rfl
@[simp] theorem State.sub_setPort (s : State) (p : Port) (x : PortState) : (s.setPort p x).sub = s.sub := rfl
@[simp] theorem State.queue_setPort (s : State) (p : Port) (x : PortState) : (s.setPort p x).queue = s.queue := rfl
@[simp] theorem State.arrival_setPort (s : State) (p : Port) (x : PortState) : (s.setPort p x).arrival = s.arrival := rfl
@[simp] theorem State.aging_setPort (s : State) (p : Port) (x : PortState) : (s.setPort p x).aging = s.aging := rfl
@[simp] theorem State.converter_setPort (s : State) (p : Port) (x : PortState) : (s.setPort p x).converter = s.converter := rfl
@[simp] theorem State.calibration_setPort (s : State) (p : Port) (x : PortState) : (s.setPort p x).calibration = s.calibration := rfl
@[simp] theorem State.work_setPort (s : State) (p : Port) (x : PortState) : (s.setPort p x).work = s.work := rfl
@[simp] theorem State.clock_setPort (s : State) (p : Port) (x : PortState) : (s.setPort p x).clock = s.clock := rfl
@[simp] theorem State.ports_setPort (s : State) (p : Port) (x : PortState) : (s.setPort p x).ports = s.ports.set p x := rfl
@[simp] theorem State.proposal_setPort (s : State) (p : Port) (x : PortState) : (s.setPort p x).proposal = s.proposal := rfl
@[simp] theorem State.nextId_setPort (s : State) (p : Port) (x : PortState) : (s.setPort p x).nextId = s.nextId := rfl
@[simp] theorem State.window_setPort (s : State) (p : Port) (x : PortState) : (s.setPort p x).window = s.window := rfl
@[simp] theorem State.resetCause_setPort (s : State) (p : Port) (x : PortState) : (s.setPort p x).resetCause = s.resetCause := rfl
@[simp] theorem State.resetHeld_setPort (s : State) (p : Port) (x : PortState) : (s.setPort p x).resetHeld = s.resetHeld := rfl
@[simp] theorem State.fresh_setPort (s : State) (p : Port) (x : PortState) : (s.setPort p x).fresh = s.fresh := rfl
@[simp] theorem State.pending_setPort (s : State) (p : Port) (x : PortState) : (s.setPort p x).pending = s.pending := rfl

/-! ### raise -/

@[simp] theorem State.entries_raise (s : State) (n : Notice) (who : PortSet) : (s.raise n who).entries = s.entries := rfl
@[simp] theorem State.entry_raise (s : State) (n : Notice) (who : PortSet) (i : EntryId) : (s.raise n who).entry i = s.entry i := rfl
@[simp] theorem State.monitors_raise (s : State) (n : Notice) (who : PortSet) : (s.raise n who).monitors = s.monitors := rfl
@[simp] theorem State.monitor_raise (s : State) (n : Notice) (who : PortSet) (i : MonId) : (s.raise n who).monitor i = s.monitor i := rfl
@[simp] theorem State.slots_raise (s : State) (n : Notice) (who : PortSet) : (s.raise n who).slots = s.slots := rfl
@[simp] theorem State.slotAt_raise (s : State) (n : Notice) (who : PortSet) (i : SlotId) : (s.raise n who).slotAt i = s.slotAt i := rfl
@[simp] theorem State.timers_raise (s : State) (n : Notice) (who : PortSet) : (s.raise n who).timers = s.timers := rfl
@[simp] theorem State.timer_raise (s : State) (n : Notice) (who : PortSet) (i : TimerId) : (s.raise n who).timer i = s.timer i := rfl
@[simp] theorem State.pins_raise (s : State) (n : Notice) (who : PortSet) : (s.raise n who).pins = s.pins := rfl
@[simp] theorem State.pin_raise (s : State) (n : Notice) (who : PortSet) (i : PinId) : (s.raise n who).pin i = s.pin i := rfl
@[simp] theorem State.timebase_raise (s : State) (n : Notice) (who : PortSet) : (s.raise n who).timebase = s.timebase := rfl
@[simp] theorem State.sub_raise (s : State) (n : Notice) (who : PortSet) : (s.raise n who).sub = s.sub := rfl
@[simp] theorem State.queue_raise (s : State) (n : Notice) (who : PortSet) : (s.raise n who).queue = s.queue := rfl
@[simp] theorem State.arrival_raise (s : State) (n : Notice) (who : PortSet) : (s.raise n who).arrival = s.arrival := rfl
@[simp] theorem State.aging_raise (s : State) (n : Notice) (who : PortSet) : (s.raise n who).aging = s.aging := rfl
@[simp] theorem State.converter_raise (s : State) (n : Notice) (who : PortSet) : (s.raise n who).converter = s.converter := rfl
@[simp] theorem State.calibration_raise (s : State) (n : Notice) (who : PortSet) : (s.raise n who).calibration = s.calibration := rfl
@[simp] theorem State.work_raise (s : State) (n : Notice) (who : PortSet) : (s.raise n who).work = s.work := rfl
@[simp] theorem State.clock_raise (s : State) (n : Notice) (who : PortSet) : (s.raise n who).clock = s.clock := rfl
@[simp] theorem State.ports_raise (s : State) (n : Notice) (who : PortSet) : (s.raise n who).ports = s.ports.mapIdx fun p x => x.receive (who.get p) n s.timebase := rfl
@[simp] theorem State.proposal_raise (s : State) (n : Notice) (who : PortSet) : (s.raise n who).proposal = s.proposal := rfl
@[simp] theorem State.nextId_raise (s : State) (n : Notice) (who : PortSet) : (s.raise n who).nextId = s.nextId := rfl
@[simp] theorem State.window_raise (s : State) (n : Notice) (who : PortSet) : (s.raise n who).window = s.window := rfl
@[simp] theorem State.resetCause_raise (s : State) (n : Notice) (who : PortSet) : (s.raise n who).resetCause = s.resetCause := rfl
@[simp] theorem State.resetHeld_raise (s : State) (n : Notice) (who : PortSet) : (s.raise n who).resetHeld = s.resetHeld := rfl
@[simp] theorem State.fresh_raise (s : State) (n : Notice) (who : PortSet) : (s.raise n who).fresh = s.fresh := rfl
@[simp] theorem State.pending_raise (s : State) (n : Notice) (who : PortSet) : (s.raise n who).pending = s.pending := rfl

/-! ### dropTicket -/

@[simp] theorem State.entries_dropTicket (s : State) (e : EntryId) : (s.dropTicket e).entries = s.entries := rfl
@[simp] theorem State.entry_dropTicket (s : State) (e : EntryId) (i : EntryId) : (s.dropTicket e).entry i = s.entry i := rfl
@[simp] theorem State.monitors_dropTicket (s : State) (e : EntryId) : (s.dropTicket e).monitors = s.monitors := rfl
@[simp] theorem State.monitor_dropTicket (s : State) (e : EntryId) (i : MonId) : (s.dropTicket e).monitor i = s.monitor i := rfl
@[simp] theorem State.slots_dropTicket (s : State) (e : EntryId) : (s.dropTicket e).slots = s.slots := rfl
@[simp] theorem State.slotAt_dropTicket (s : State) (e : EntryId) (i : SlotId) : (s.dropTicket e).slotAt i = s.slotAt i := rfl
@[simp] theorem State.timers_dropTicket (s : State) (e : EntryId) : (s.dropTicket e).timers = s.timers := rfl
@[simp] theorem State.timer_dropTicket (s : State) (e : EntryId) (i : TimerId) : (s.dropTicket e).timer i = s.timer i := rfl
@[simp] theorem State.pins_dropTicket (s : State) (e : EntryId) : (s.dropTicket e).pins = s.pins := rfl
@[simp] theorem State.pin_dropTicket (s : State) (e : EntryId) (i : PinId) : (s.dropTicket e).pin i = s.pin i := rfl
@[simp] theorem State.timebase_dropTicket (s : State) (e : EntryId) : (s.dropTicket e).timebase = s.timebase := rfl
@[simp] theorem State.sub_dropTicket (s : State) (e : EntryId) : (s.dropTicket e).sub = s.sub := rfl
@[simp] theorem State.queue_dropTicket (s : State) (e : EntryId) : (s.dropTicket e).queue = s.queue.filter fun t => t.entry != e := rfl
@[simp] theorem State.arrival_dropTicket (s : State) (e : EntryId) : (s.dropTicket e).arrival = s.arrival := rfl
@[simp] theorem State.aging_dropTicket (s : State) (e : EntryId) : (s.dropTicket e).aging = s.aging := rfl
@[simp] theorem State.converter_dropTicket (s : State) (e : EntryId) : (s.dropTicket e).converter = s.converter := rfl
@[simp] theorem State.calibration_dropTicket (s : State) (e : EntryId) : (s.dropTicket e).calibration = s.calibration := rfl
@[simp] theorem State.work_dropTicket (s : State) (e : EntryId) : (s.dropTicket e).work = s.work := rfl
@[simp] theorem State.clock_dropTicket (s : State) (e : EntryId) : (s.dropTicket e).clock = s.clock := rfl
@[simp] theorem State.ports_dropTicket (s : State) (e : EntryId) : (s.dropTicket e).ports = s.ports := rfl
@[simp] theorem State.port_dropTicket (s : State) (e : EntryId) (i : Port) : (s.dropTicket e).port i = s.port i := rfl
@[simp] theorem State.proposal_dropTicket (s : State) (e : EntryId) : (s.dropTicket e).proposal = s.proposal := rfl
@[simp] theorem State.nextId_dropTicket (s : State) (e : EntryId) : (s.dropTicket e).nextId = s.nextId := rfl
@[simp] theorem State.window_dropTicket (s : State) (e : EntryId) : (s.dropTicket e).window = s.window := rfl
@[simp] theorem State.resetCause_dropTicket (s : State) (e : EntryId) : (s.dropTicket e).resetCause = s.resetCause := rfl
@[simp] theorem State.resetHeld_dropTicket (s : State) (e : EntryId) : (s.dropTicket e).resetHeld = s.resetHeld := rfl
@[simp] theorem State.fresh_dropTicket (s : State) (e : EntryId) : (s.dropTicket e).fresh = s.fresh := rfl
@[simp] theorem State.pending_dropTicket (s : State) (e : EntryId) : (s.dropTicket e).pending = s.pending := rfl

/-! ### append -/

@[simp] theorem State.entries_append (s : State) (e : EntryId) (o : Origin) : (s.append e o).entries = s.entries := rfl
@[simp] theorem State.entry_append (s : State) (e : EntryId) (o : Origin) (i : EntryId) : (s.append e o).entry i = s.entry i := rfl
@[simp] theorem State.monitors_append (s : State) (e : EntryId) (o : Origin) : (s.append e o).monitors = s.monitors := rfl
@[simp] theorem State.monitor_append (s : State) (e : EntryId) (o : Origin) (i : MonId) : (s.append e o).monitor i = s.monitor i := rfl
@[simp] theorem State.slots_append (s : State) (e : EntryId) (o : Origin) : (s.append e o).slots = s.slots := rfl
@[simp] theorem State.slotAt_append (s : State) (e : EntryId) (o : Origin) (i : SlotId) : (s.append e o).slotAt i = s.slotAt i := rfl
@[simp] theorem State.timers_append (s : State) (e : EntryId) (o : Origin) : (s.append e o).timers = s.timers := rfl
@[simp] theorem State.timer_append (s : State) (e : EntryId) (o : Origin) (i : TimerId) : (s.append e o).timer i = s.timer i := rfl
@[simp] theorem State.pins_append (s : State) (e : EntryId) (o : Origin) : (s.append e o).pins = s.pins := rfl
@[simp] theorem State.pin_append (s : State) (e : EntryId) (o : Origin) (i : PinId) : (s.append e o).pin i = s.pin i := rfl
@[simp] theorem State.timebase_append (s : State) (e : EntryId) (o : Origin) : (s.append e o).timebase = s.timebase := rfl
@[simp] theorem State.sub_append (s : State) (e : EntryId) (o : Origin) : (s.append e o).sub = s.sub := rfl
@[simp] theorem State.queue_append (s : State) (e : EntryId) (o : Origin) : (s.append e o).queue = s.queue ++ [⟨e, o, (s.entry e).contents.cls, s.arrival, s.timebase⟩] := rfl
@[simp] theorem State.arrival_append (s : State) (e : EntryId) (o : Origin) : (s.append e o).arrival = s.arrival + 1 := rfl
@[simp] theorem State.aging_append (s : State) (e : EntryId) (o : Origin) : (s.append e o).aging = s.aging := rfl
@[simp] theorem State.converter_append (s : State) (e : EntryId) (o : Origin) : (s.append e o).converter = s.converter := rfl
@[simp] theorem State.calibration_append (s : State) (e : EntryId) (o : Origin) : (s.append e o).calibration = s.calibration := rfl
@[simp] theorem State.work_append (s : State) (e : EntryId) (o : Origin) : (s.append e o).work = s.work := rfl
@[simp] theorem State.clock_append (s : State) (e : EntryId) (o : Origin) : (s.append e o).clock = s.clock := rfl
@[simp] theorem State.ports_append (s : State) (e : EntryId) (o : Origin) : (s.append e o).ports = s.ports := rfl
@[simp] theorem State.port_append (s : State) (e : EntryId) (o : Origin) (i : Port) : (s.append e o).port i = s.port i := rfl
@[simp] theorem State.proposal_append (s : State) (e : EntryId) (o : Origin) : (s.append e o).proposal = s.proposal := rfl
@[simp] theorem State.nextId_append (s : State) (e : EntryId) (o : Origin) : (s.append e o).nextId = s.nextId := rfl
@[simp] theorem State.window_append (s : State) (e : EntryId) (o : Origin) : (s.append e o).window = s.window := rfl
@[simp] theorem State.resetCause_append (s : State) (e : EntryId) (o : Origin) : (s.append e o).resetCause = s.resetCause := rfl
@[simp] theorem State.resetHeld_append (s : State) (e : EntryId) (o : Origin) : (s.append e o).resetHeld = s.resetHeld := rfl
@[simp] theorem State.fresh_append (s : State) (e : EntryId) (o : Origin) : (s.append e o).fresh = s.fresh := rfl
@[simp] theorem State.pending_append (s : State) (e : EntryId) (o : Origin) : (s.append e o).pending = s.pending := rfl

/-! ### coalesce -/

@[simp] theorem State.entries_coalesce (s : State) (e : EntryId) : (s.coalesce e).entries = s.entries.set e { s.entry e with overruns := satInc (s.entry e).overruns, overrunPending := true } := rfl
@[simp] theorem State.monitors_coalesce (s : State) (e : EntryId) : (s.coalesce e).monitors = s.monitors := rfl
@[simp] theorem State.monitor_coalesce (s : State) (e : EntryId) (i : MonId) : (s.coalesce e).monitor i = s.monitor i := rfl
@[simp] theorem State.slots_coalesce (s : State) (e : EntryId) : (s.coalesce e).slots = s.slots := rfl
@[simp] theorem State.slotAt_coalesce (s : State) (e : EntryId) (i : SlotId) : (s.coalesce e).slotAt i = s.slotAt i := rfl
@[simp] theorem State.timers_coalesce (s : State) (e : EntryId) : (s.coalesce e).timers = s.timers := rfl
@[simp] theorem State.timer_coalesce (s : State) (e : EntryId) (i : TimerId) : (s.coalesce e).timer i = s.timer i := rfl
@[simp] theorem State.pins_coalesce (s : State) (e : EntryId) : (s.coalesce e).pins = s.pins := rfl
@[simp] theorem State.pin_coalesce (s : State) (e : EntryId) (i : PinId) : (s.coalesce e).pin i = s.pin i := rfl
@[simp] theorem State.timebase_coalesce (s : State) (e : EntryId) : (s.coalesce e).timebase = s.timebase := rfl
@[simp] theorem State.sub_coalesce (s : State) (e : EntryId) : (s.coalesce e).sub = s.sub := rfl
@[simp] theorem State.queue_coalesce (s : State) (e : EntryId) : (s.coalesce e).queue = s.queue := rfl
@[simp] theorem State.arrival_coalesce (s : State) (e : EntryId) : (s.coalesce e).arrival = s.arrival := rfl
@[simp] theorem State.aging_coalesce (s : State) (e : EntryId) : (s.coalesce e).aging = s.aging := rfl
@[simp] theorem State.converter_coalesce (s : State) (e : EntryId) : (s.coalesce e).converter = s.converter := rfl
@[simp] theorem State.calibration_coalesce (s : State) (e : EntryId) : (s.coalesce e).calibration = s.calibration := rfl
@[simp] theorem State.work_coalesce (s : State) (e : EntryId) : (s.coalesce e).work = s.work := rfl
@[simp] theorem State.clock_coalesce (s : State) (e : EntryId) : (s.coalesce e).clock = s.clock := rfl
@[simp] theorem State.ports_coalesce (s : State) (e : EntryId) : (s.coalesce e).ports = s.ports := rfl
@[simp] theorem State.port_coalesce (s : State) (e : EntryId) (i : Port) : (s.coalesce e).port i = s.port i := rfl
@[simp] theorem State.proposal_coalesce (s : State) (e : EntryId) : (s.coalesce e).proposal = s.proposal := rfl
@[simp] theorem State.nextId_coalesce (s : State) (e : EntryId) : (s.coalesce e).nextId = s.nextId := rfl
@[simp] theorem State.window_coalesce (s : State) (e : EntryId) : (s.coalesce e).window = s.window := rfl
@[simp] theorem State.resetCause_coalesce (s : State) (e : EntryId) : (s.coalesce e).resetCause = s.resetCause := rfl
@[simp] theorem State.resetHeld_coalesce (s : State) (e : EntryId) : (s.coalesce e).resetHeld = s.resetHeld := rfl
@[simp] theorem State.fresh_coalesce (s : State) (e : EntryId) : (s.coalesce e).fresh = s.fresh := rfl
@[simp] theorem State.pending_coalesce (s : State) (e : EntryId) : (s.coalesce e).pending = s.pending := rfl

/-! ### begin -/

@[simp] theorem State.entries_begin (s : State) (e : EntryId) (sc : Scope) (n : Nat) : (s.begin e sc n).entries = s.entries := rfl
@[simp] theorem State.entry_begin (s : State) (e : EntryId) (sc : Scope) (n : Nat) (i : EntryId) : (s.begin e sc n).entry i = s.entry i := rfl
@[simp] theorem State.monitors_begin (s : State) (e : EntryId) (sc : Scope) (n : Nat) : (s.begin e sc n).monitors = s.monitors := rfl
@[simp] theorem State.monitor_begin (s : State) (e : EntryId) (sc : Scope) (n : Nat) (i : MonId) : (s.begin e sc n).monitor i = s.monitor i := rfl
@[simp] theorem State.slots_begin (s : State) (e : EntryId) (sc : Scope) (n : Nat) : (s.begin e sc n).slots = s.slots := rfl
@[simp] theorem State.slotAt_begin (s : State) (e : EntryId) (sc : Scope) (n : Nat) (i : SlotId) : (s.begin e sc n).slotAt i = s.slotAt i := rfl
@[simp] theorem State.timers_begin (s : State) (e : EntryId) (sc : Scope) (n : Nat) : (s.begin e sc n).timers = s.timers := rfl
@[simp] theorem State.timer_begin (s : State) (e : EntryId) (sc : Scope) (n : Nat) (i : TimerId) : (s.begin e sc n).timer i = s.timer i := rfl
@[simp] theorem State.pins_begin (s : State) (e : EntryId) (sc : Scope) (n : Nat) : (s.begin e sc n).pins = s.pins := rfl
@[simp] theorem State.pin_begin (s : State) (e : EntryId) (sc : Scope) (n : Nat) (i : PinId) : (s.begin e sc n).pin i = s.pin i := rfl
@[simp] theorem State.timebase_begin (s : State) (e : EntryId) (sc : Scope) (n : Nat) : (s.begin e sc n).timebase = s.timebase := rfl
@[simp] theorem State.sub_begin (s : State) (e : EntryId) (sc : Scope) (n : Nat) : (s.begin e sc n).sub = s.sub := rfl
@[simp] theorem State.queue_begin (s : State) (e : EntryId) (sc : Scope) (n : Nat) : (s.begin e sc n).queue = s.queue := rfl
@[simp] theorem State.arrival_begin (s : State) (e : EntryId) (sc : Scope) (n : Nat) : (s.begin e sc n).arrival = s.arrival := rfl
@[simp] theorem State.aging_begin (s : State) (e : EntryId) (sc : Scope) (n : Nat) : (s.begin e sc n).aging = s.aging := rfl
@[simp] theorem State.converter_begin (s : State) (e : EntryId) (sc : Scope) (n : Nat) : (s.begin e sc n).converter = .settling (copyOf e (s.entry e) sc n) := rfl
@[simp] theorem State.calibration_begin (s : State) (e : EntryId) (sc : Scope) (n : Nat) : (s.begin e sc n).calibration = s.calibration := rfl
@[simp] theorem State.work_begin (s : State) (e : EntryId) (sc : Scope) (n : Nat) : (s.begin e sc n).work = workLeft s.clock.active (settlePeriods (copyOf e (s.entry e) sc n)) := rfl
@[simp] theorem State.clock_begin (s : State) (e : EntryId) (sc : Scope) (n : Nat) : (s.begin e sc n).clock = s.clock := rfl
@[simp] theorem State.ports_begin (s : State) (e : EntryId) (sc : Scope) (n : Nat) : (s.begin e sc n).ports = s.ports := rfl
@[simp] theorem State.port_begin (s : State) (e : EntryId) (sc : Scope) (n : Nat) (i : Port) : (s.begin e sc n).port i = s.port i := rfl
@[simp] theorem State.proposal_begin (s : State) (e : EntryId) (sc : Scope) (n : Nat) : (s.begin e sc n).proposal = s.proposal := rfl
@[simp] theorem State.nextId_begin (s : State) (e : EntryId) (sc : Scope) (n : Nat) : (s.begin e sc n).nextId = s.nextId := rfl
@[simp] theorem State.window_begin (s : State) (e : EntryId) (sc : Scope) (n : Nat) : (s.begin e sc n).window = s.window := rfl
@[simp] theorem State.resetCause_begin (s : State) (e : EntryId) (sc : Scope) (n : Nat) : (s.begin e sc n).resetCause = s.resetCause := rfl
@[simp] theorem State.resetHeld_begin (s : State) (e : EntryId) (sc : Scope) (n : Nat) : (s.begin e sc n).resetHeld = s.resetHeld := rfl
@[simp] theorem State.fresh_begin (s : State) (e : EntryId) (sc : Scope) (n : Nat) : (s.begin e sc n).fresh = s.fresh := rfl
@[simp] theorem State.pending_begin (s : State) (e : EntryId) (sc : Scope) (n : Nat) : (s.begin e sc n).pending = s.pending := rfl

/-! ### endFrame -/

@[simp] theorem State.entries_endFrame (s : State) (p : Port) : (s.endFrame p).entries = s.entries := rfl
@[simp] theorem State.entry_endFrame (s : State) (p : Port) (i : EntryId) : (s.endFrame p).entry i = s.entry i := rfl
@[simp] theorem State.monitors_endFrame (s : State) (p : Port) : (s.endFrame p).monitors = s.monitors := rfl
@[simp] theorem State.monitor_endFrame (s : State) (p : Port) (i : MonId) : (s.endFrame p).monitor i = s.monitor i := rfl
@[simp] theorem State.slots_endFrame (s : State) (p : Port) : (s.endFrame p).slots = s.slots := rfl
@[simp] theorem State.slotAt_endFrame (s : State) (p : Port) (i : SlotId) : (s.endFrame p).slotAt i = s.slotAt i := rfl
@[simp] theorem State.timers_endFrame (s : State) (p : Port) : (s.endFrame p).timers = s.timers := rfl
@[simp] theorem State.timer_endFrame (s : State) (p : Port) (i : TimerId) : (s.endFrame p).timer i = s.timer i := rfl
@[simp] theorem State.pins_endFrame (s : State) (p : Port) : (s.endFrame p).pins = s.pins := rfl
@[simp] theorem State.pin_endFrame (s : State) (p : Port) (i : PinId) : (s.endFrame p).pin i = s.pin i := rfl
@[simp] theorem State.timebase_endFrame (s : State) (p : Port) : (s.endFrame p).timebase = s.timebase := rfl
@[simp] theorem State.sub_endFrame (s : State) (p : Port) : (s.endFrame p).sub = s.sub := rfl
@[simp] theorem State.queue_endFrame (s : State) (p : Port) : (s.endFrame p).queue = s.queue := rfl
@[simp] theorem State.arrival_endFrame (s : State) (p : Port) : (s.endFrame p).arrival = s.arrival := rfl
@[simp] theorem State.aging_endFrame (s : State) (p : Port) : (s.endFrame p).aging = s.aging := rfl
@[simp] theorem State.converter_endFrame (s : State) (p : Port) : (s.endFrame p).converter = s.converter := rfl
@[simp] theorem State.calibration_endFrame (s : State) (p : Port) : (s.endFrame p).calibration = s.calibration := rfl
@[simp] theorem State.work_endFrame (s : State) (p : Port) : (s.endFrame p).work = s.work := rfl
@[simp] theorem State.clock_endFrame (s : State) (p : Port) : (s.endFrame p).clock = s.clock := rfl
@[simp] theorem State.ports_endFrame (s : State) (p : Port) : (s.endFrame p).ports = s.ports.set p { s.port p with frame := .idle, gap := 0 } := rfl
@[simp] theorem State.proposal_endFrame (s : State) (p : Port) : (s.endFrame p).proposal = s.proposal := rfl
@[simp] theorem State.nextId_endFrame (s : State) (p : Port) : (s.endFrame p).nextId = s.nextId := rfl
@[simp] theorem State.window_endFrame (s : State) (p : Port) : (s.endFrame p).window = s.window := rfl
@[simp] theorem State.resetCause_endFrame (s : State) (p : Port) : (s.endFrame p).resetCause = s.resetCause := rfl
@[simp] theorem State.resetHeld_endFrame (s : State) (p : Port) : (s.endFrame p).resetHeld = s.resetHeld := rfl
@[simp] theorem State.fresh_endFrame (s : State) (p : Port) : (s.endFrame p).fresh = s.fresh := rfl
@[simp] theorem State.pending_endFrame (s : State) (p : Port) : (s.endFrame p).pending = s.pending := rfl

/-! ### dropFrame -/

@[simp] theorem State.entries_dropFrame (s : State) (p : Port) : (s.dropFrame p).entries = s.entries := rfl
@[simp] theorem State.entry_dropFrame (s : State) (p : Port) (i : EntryId) : (s.dropFrame p).entry i = s.entry i := rfl
@[simp] theorem State.monitors_dropFrame (s : State) (p : Port) : (s.dropFrame p).monitors = s.monitors := rfl
@[simp] theorem State.monitor_dropFrame (s : State) (p : Port) (i : MonId) : (s.dropFrame p).monitor i = s.monitor i := rfl
@[simp] theorem State.slots_dropFrame (s : State) (p : Port) : (s.dropFrame p).slots = s.slots := rfl
@[simp] theorem State.slotAt_dropFrame (s : State) (p : Port) (i : SlotId) : (s.dropFrame p).slotAt i = s.slotAt i := rfl
@[simp] theorem State.timers_dropFrame (s : State) (p : Port) : (s.dropFrame p).timers = s.timers := rfl
@[simp] theorem State.timer_dropFrame (s : State) (p : Port) (i : TimerId) : (s.dropFrame p).timer i = s.timer i := rfl
@[simp] theorem State.pins_dropFrame (s : State) (p : Port) : (s.dropFrame p).pins = s.pins := rfl
@[simp] theorem State.pin_dropFrame (s : State) (p : Port) (i : PinId) : (s.dropFrame p).pin i = s.pin i := rfl
@[simp] theorem State.timebase_dropFrame (s : State) (p : Port) : (s.dropFrame p).timebase = s.timebase := rfl
@[simp] theorem State.sub_dropFrame (s : State) (p : Port) : (s.dropFrame p).sub = s.sub := rfl
@[simp] theorem State.queue_dropFrame (s : State) (p : Port) : (s.dropFrame p).queue = s.queue := rfl
@[simp] theorem State.arrival_dropFrame (s : State) (p : Port) : (s.dropFrame p).arrival = s.arrival := rfl
@[simp] theorem State.aging_dropFrame (s : State) (p : Port) : (s.dropFrame p).aging = s.aging := rfl
@[simp] theorem State.converter_dropFrame (s : State) (p : Port) : (s.dropFrame p).converter = s.converter := rfl
@[simp] theorem State.calibration_dropFrame (s : State) (p : Port) : (s.dropFrame p).calibration = s.calibration := rfl
@[simp] theorem State.work_dropFrame (s : State) (p : Port) : (s.dropFrame p).work = s.work := rfl
@[simp] theorem State.clock_dropFrame (s : State) (p : Port) : (s.dropFrame p).clock = s.clock := rfl
@[simp] theorem State.ports_dropFrame (s : State) (p : Port) : (s.dropFrame p).ports = s.ports.set p { s.port p with frame := .idle } := rfl
@[simp] theorem State.proposal_dropFrame (s : State) (p : Port) : (s.dropFrame p).proposal = s.proposal := rfl
@[simp] theorem State.nextId_dropFrame (s : State) (p : Port) : (s.dropFrame p).nextId = s.nextId := rfl
@[simp] theorem State.window_dropFrame (s : State) (p : Port) : (s.dropFrame p).window = s.window := rfl
@[simp] theorem State.resetCause_dropFrame (s : State) (p : Port) : (s.dropFrame p).resetCause = s.resetCause := rfl
@[simp] theorem State.resetHeld_dropFrame (s : State) (p : Port) : (s.dropFrame p).resetHeld = s.resetHeld := rfl
@[simp] theorem State.fresh_dropFrame (s : State) (p : Port) : (s.dropFrame p).fresh = s.fresh := rfl
@[simp] theorem State.pending_dropFrame (s : State) (p : Port) : (s.dropFrame p).pending = s.pending := rfl

/-! ### place -/

@[simp] theorem State.entries_place (s : State) (p : Port) (r : Response) : (s.place p r).entries = s.entries := rfl
@[simp] theorem State.entry_place (s : State) (p : Port) (r : Response) (i : EntryId) : (s.place p r).entry i = s.entry i := rfl
@[simp] theorem State.monitors_place (s : State) (p : Port) (r : Response) : (s.place p r).monitors = s.monitors := rfl
@[simp] theorem State.monitor_place (s : State) (p : Port) (r : Response) (i : MonId) : (s.place p r).monitor i = s.monitor i := rfl
@[simp] theorem State.slots_place (s : State) (p : Port) (r : Response) : (s.place p r).slots = s.slots := rfl
@[simp] theorem State.slotAt_place (s : State) (p : Port) (r : Response) (i : SlotId) : (s.place p r).slotAt i = s.slotAt i := rfl
@[simp] theorem State.timers_place (s : State) (p : Port) (r : Response) : (s.place p r).timers = s.timers := rfl
@[simp] theorem State.timer_place (s : State) (p : Port) (r : Response) (i : TimerId) : (s.place p r).timer i = s.timer i := rfl
@[simp] theorem State.pins_place (s : State) (p : Port) (r : Response) : (s.place p r).pins = s.pins := rfl
@[simp] theorem State.pin_place (s : State) (p : Port) (r : Response) (i : PinId) : (s.place p r).pin i = s.pin i := rfl
@[simp] theorem State.timebase_place (s : State) (p : Port) (r : Response) : (s.place p r).timebase = s.timebase := rfl
@[simp] theorem State.sub_place (s : State) (p : Port) (r : Response) : (s.place p r).sub = s.sub := rfl
@[simp] theorem State.queue_place (s : State) (p : Port) (r : Response) : (s.place p r).queue = s.queue := rfl
@[simp] theorem State.arrival_place (s : State) (p : Port) (r : Response) : (s.place p r).arrival = s.arrival := rfl
@[simp] theorem State.aging_place (s : State) (p : Port) (r : Response) : (s.place p r).aging = s.aging := rfl
@[simp] theorem State.converter_place (s : State) (p : Port) (r : Response) : (s.place p r).converter = s.converter := rfl
@[simp] theorem State.calibration_place (s : State) (p : Port) (r : Response) : (s.place p r).calibration = s.calibration := rfl
@[simp] theorem State.work_place (s : State) (p : Port) (r : Response) : (s.place p r).work = s.work := rfl
@[simp] theorem State.clock_place (s : State) (p : Port) (r : Response) : (s.place p r).clock = s.clock := rfl
@[simp] theorem State.ports_place (s : State) (p : Port) (r : Response) : (s.place p r).ports = s.ports.set p { s.port p with slot := r } := rfl
@[simp] theorem State.proposal_place (s : State) (p : Port) (r : Response) : (s.place p r).proposal = s.proposal := rfl
@[simp] theorem State.nextId_place (s : State) (p : Port) (r : Response) : (s.place p r).nextId = s.nextId := rfl
@[simp] theorem State.window_place (s : State) (p : Port) (r : Response) : (s.place p r).window = s.window := rfl
@[simp] theorem State.resetCause_place (s : State) (p : Port) (r : Response) : (s.place p r).resetCause = s.resetCause := rfl
@[simp] theorem State.resetHeld_place (s : State) (p : Port) (r : Response) : (s.place p r).resetHeld = s.resetHeld := rfl
@[simp] theorem State.fresh_place (s : State) (p : Port) (r : Response) : (s.place p r).fresh = s.fresh := rfl
@[simp] theorem State.pending_place (s : State) (p : Port) (r : Response) : (s.place p r).pending = s.pending := rfl

/-! ### removeLinks -/

@[simp] theorem State.monitors_removeLinks (s : State) (e : EntryId) (st : ItemState) : (s.removeLinks e st).monitors = s.monitors := rfl
@[simp] theorem State.monitor_removeLinks (s : State) (e : EntryId) (st : ItemState) (i : MonId) : (s.removeLinks e st).monitor i = s.monitor i := rfl
@[simp] theorem State.slots_removeLinks (s : State) (e : EntryId) (st : ItemState) : (s.removeLinks e st).slots = s.slots := rfl
@[simp] theorem State.slotAt_removeLinks (s : State) (e : EntryId) (st : ItemState) (i : SlotId) : (s.removeLinks e st).slotAt i = s.slotAt i := rfl
@[simp] theorem State.timers_removeLinks (s : State) (e : EntryId) (st : ItemState) : (s.removeLinks e st).timers = s.timers := rfl
@[simp] theorem State.timer_removeLinks (s : State) (e : EntryId) (st : ItemState) (i : TimerId) : (s.removeLinks e st).timer i = s.timer i := rfl
@[simp] theorem State.pins_removeLinks (s : State) (e : EntryId) (st : ItemState) : (s.removeLinks e st).pins = s.pins := rfl
@[simp] theorem State.pin_removeLinks (s : State) (e : EntryId) (st : ItemState) (i : PinId) : (s.removeLinks e st).pin i = s.pin i := rfl
@[simp] theorem State.timebase_removeLinks (s : State) (e : EntryId) (st : ItemState) : (s.removeLinks e st).timebase = s.timebase := rfl
@[simp] theorem State.sub_removeLinks (s : State) (e : EntryId) (st : ItemState) : (s.removeLinks e st).sub = s.sub := rfl
@[simp] theorem State.queue_removeLinks (s : State) (e : EntryId) (st : ItemState) : (s.removeLinks e st).queue = s.queue := rfl
@[simp] theorem State.arrival_removeLinks (s : State) (e : EntryId) (st : ItemState) : (s.removeLinks e st).arrival = s.arrival := rfl
@[simp] theorem State.aging_removeLinks (s : State) (e : EntryId) (st : ItemState) : (s.removeLinks e st).aging = s.aging := rfl
@[simp] theorem State.converter_removeLinks (s : State) (e : EntryId) (st : ItemState) : (s.removeLinks e st).converter = s.converter := rfl
@[simp] theorem State.calibration_removeLinks (s : State) (e : EntryId) (st : ItemState) : (s.removeLinks e st).calibration = s.calibration := rfl
@[simp] theorem State.work_removeLinks (s : State) (e : EntryId) (st : ItemState) : (s.removeLinks e st).work = s.work := rfl
@[simp] theorem State.clock_removeLinks (s : State) (e : EntryId) (st : ItemState) : (s.removeLinks e st).clock = s.clock := rfl
@[simp] theorem State.ports_removeLinks (s : State) (e : EntryId) (st : ItemState) : (s.removeLinks e st).ports = s.ports := rfl
@[simp] theorem State.port_removeLinks (s : State) (e : EntryId) (st : ItemState) (i : Port) : (s.removeLinks e st).port i = s.port i := rfl
@[simp] theorem State.proposal_removeLinks (s : State) (e : EntryId) (st : ItemState) : (s.removeLinks e st).proposal = s.proposal := rfl
@[simp] theorem State.nextId_removeLinks (s : State) (e : EntryId) (st : ItemState) : (s.removeLinks e st).nextId = s.nextId := rfl
@[simp] theorem State.window_removeLinks (s : State) (e : EntryId) (st : ItemState) : (s.removeLinks e st).window = s.window := rfl
@[simp] theorem State.resetCause_removeLinks (s : State) (e : EntryId) (st : ItemState) : (s.removeLinks e st).resetCause = s.resetCause := rfl
@[simp] theorem State.resetHeld_removeLinks (s : State) (e : EntryId) (st : ItemState) : (s.removeLinks e st).resetHeld = s.resetHeld := rfl
@[simp] theorem State.fresh_removeLinks (s : State) (e : EntryId) (st : ItemState) : (s.removeLinks e st).fresh = s.fresh := rfl
@[simp] theorem State.pending_removeLinks (s : State) (e : EntryId) (st : ItemState) : (s.removeLinks e st).pending = s.pending := rfl

/-! ### freeMonitors -/

@[simp] theorem State.entries_freeMonitors (s : State) (p : Port) : (s.freeMonitors p).entries = s.entries := rfl
@[simp] theorem State.entry_freeMonitors (s : State) (p : Port) (i : EntryId) : (s.freeMonitors p).entry i = s.entry i := rfl
@[simp] theorem State.slots_freeMonitors (s : State) (p : Port) : (s.freeMonitors p).slots = s.slots := rfl
@[simp] theorem State.slotAt_freeMonitors (s : State) (p : Port) (i : SlotId) : (s.freeMonitors p).slotAt i = s.slotAt i := rfl
@[simp] theorem State.timers_freeMonitors (s : State) (p : Port) : (s.freeMonitors p).timers = s.timers := rfl
@[simp] theorem State.timer_freeMonitors (s : State) (p : Port) (i : TimerId) : (s.freeMonitors p).timer i = s.timer i := rfl
@[simp] theorem State.pins_freeMonitors (s : State) (p : Port) : (s.freeMonitors p).pins = s.pins := rfl
@[simp] theorem State.pin_freeMonitors (s : State) (p : Port) (i : PinId) : (s.freeMonitors p).pin i = s.pin i := rfl
@[simp] theorem State.timebase_freeMonitors (s : State) (p : Port) : (s.freeMonitors p).timebase = s.timebase := rfl
@[simp] theorem State.sub_freeMonitors (s : State) (p : Port) : (s.freeMonitors p).sub = s.sub := rfl
@[simp] theorem State.queue_freeMonitors (s : State) (p : Port) : (s.freeMonitors p).queue = s.queue := rfl
@[simp] theorem State.arrival_freeMonitors (s : State) (p : Port) : (s.freeMonitors p).arrival = s.arrival := rfl
@[simp] theorem State.aging_freeMonitors (s : State) (p : Port) : (s.freeMonitors p).aging = s.aging := rfl
@[simp] theorem State.converter_freeMonitors (s : State) (p : Port) : (s.freeMonitors p).converter = s.converter := rfl
@[simp] theorem State.calibration_freeMonitors (s : State) (p : Port) : (s.freeMonitors p).calibration = s.calibration := rfl
@[simp] theorem State.work_freeMonitors (s : State) (p : Port) : (s.freeMonitors p).work = s.work := rfl
@[simp] theorem State.clock_freeMonitors (s : State) (p : Port) : (s.freeMonitors p).clock = s.clock := rfl
@[simp] theorem State.ports_freeMonitors (s : State) (p : Port) : (s.freeMonitors p).ports = s.ports := rfl
@[simp] theorem State.port_freeMonitors (s : State) (p : Port) (i : Port) : (s.freeMonitors p).port i = s.port i := rfl
@[simp] theorem State.proposal_freeMonitors (s : State) (p : Port) : (s.freeMonitors p).proposal = s.proposal := rfl
@[simp] theorem State.nextId_freeMonitors (s : State) (p : Port) : (s.freeMonitors p).nextId = s.nextId := rfl
@[simp] theorem State.window_freeMonitors (s : State) (p : Port) : (s.freeMonitors p).window = s.window := rfl
@[simp] theorem State.resetCause_freeMonitors (s : State) (p : Port) : (s.freeMonitors p).resetCause = s.resetCause := rfl
@[simp] theorem State.resetHeld_freeMonitors (s : State) (p : Port) : (s.freeMonitors p).resetHeld = s.resetHeld := rfl
@[simp] theorem State.fresh_freeMonitors (s : State) (p : Port) : (s.freeMonitors p).fresh = s.fresh := rfl
@[simp] theorem State.pending_freeMonitors (s : State) (p : Port) : (s.freeMonitors p).pending = s.pending := rfl

/-! ### Updates of different parts commute -/

theorem State.setEntry_setPort (s : State) (p : Port) (y : PortState) (e : EntryId) (x : Entry) :
    (s.setPort p y).setEntry e x = (s.setEntry e x).setPort p y := rfl
theorem State.setMonitor_setPort (s : State) (p : Port) (y : PortState) (m : MonId) (x : Monitor) :
    (s.setPort p y).setMonitor m x = (s.setMonitor m x).setPort p y := rfl
theorem State.setSlot_setPort (s : State) (p : Port) (y : PortState) (j : SlotId) (x : SlotRecord) :
    (s.setPort p y).setSlot j x = (s.setSlot j x).setPort p y := rfl
theorem State.setTimer_setPort (s : State) (p : Port) (y : PortState) (k : TimerId) (x : Timer) :
    (s.setPort p y).setTimer k x = (s.setTimer k x).setPort p y := rfl
theorem State.setPin_setPort (s : State) (p : Port) (y : PortState) (k : PinId) (x : Pin) :
    (s.setPort p y).setPin k x = (s.setPin k x).setPort p y := rfl
theorem State.dropTicket_setPort (s : State) (p : Port) (y : PortState) (e : EntryId) :
    (s.setPort p y).dropTicket e = (s.dropTicket e).setPort p y := rfl
theorem State.append_setPort (s : State) (p : Port) (y : PortState) (e : EntryId) (o : Origin) :
    (s.setPort p y).append e o = (s.append e o).setPort p y := rfl
theorem State.coalesce_setPort (s : State) (p : Port) (y : PortState) (e : EntryId) :
    (s.setPort p y).coalesce e = (s.coalesce e).setPort p y := rfl
theorem State.begin_setPort (s : State) (p : Port) (y : PortState) (e : EntryId) (sc : Scope) (n : Nat) :
    (s.setPort p y).begin e sc n = (s.begin e sc n).setPort p y := rfl
theorem State.removeLinks_setPort (s : State) (p : Port) (y : PortState) (e : EntryId) (st : ItemState) :
    (s.setPort p y).removeLinks e st = (s.removeLinks e st).setPort p y := rfl
theorem State.freeMonitors_setPort (s : State) (p : Port) (y : PortState) (q : Port) :
    (s.setPort p y).freeMonitors q = (s.freeMonitors q).setPort p y := rfl

/-! ### Computed readings that do not look at the ports -/

@[simp] theorem State.entryCount_setPort (s : State) (p : Port) (y : PortState) (q : Port) :
    (s.setPort p y).entryCount q = s.entryCount q := rfl
@[simp] theorem State.entryCount_endFrame (s : State) (p : Port) (q : Port) :
    (s.endFrame p).entryCount q = s.entryCount q := State.entryCount_setPort ..

@[simp] theorem State.monitorCount_setPort (s : State) (p : Port) (y : PortState) (q : Port) :
    (s.setPort p y).monitorCount q = s.monitorCount q := rfl
@[simp] theorem State.monitorCount_endFrame (s : State) (p : Port) (q : Port) :
    (s.endFrame p).monitorCount q = s.monitorCount q := State.monitorCount_setPort ..

@[simp] theorem State.waiting_setPort (s : State) (p : Port) (y : PortState) (q : Port) :
    (s.setPort p y).waiting q = s.waiting q := rfl
@[simp] theorem State.waiting_endFrame (s : State) (p : Port) (q : Port) :
    (s.endFrame p).waiting q = s.waiting q := State.waiting_setPort ..

@[simp] theorem State.ticketOf_setPort (s : State) (p : Port) (y : PortState) (e : EntryId) :
    (s.setPort p y).ticketOf e = s.ticketOf e := rfl
@[simp] theorem State.ticketOf_endFrame (s : State) (p : Port) (e : EntryId) :
    (s.endFrame p).ticketOf e = s.ticketOf e := State.ticketOf_setPort ..

@[simp] theorem State.chainFrom_setPort (s : State) (p : Port) (y : PortState) (n : Nat) (l : Option EntryId) :
    (s.setPort p y).chainFrom n l = s.chainFrom n l := by
  induction n generalizing l with
  | zero => rfl
  | succ n ih => cases l with
    | none => rfl
    | some e => exact congrArg (e :: ·) (ih _)
@[simp] theorem State.chainFrom_endFrame (s : State) (p : Port) (n : Nat) (l : Option EntryId) :
    (s.endFrame p).chainFrom n l = s.chainFrom n l := State.chainFrom_setPort ..

@[simp] theorem State.backwardCount_setPort (s : State) (p : Port) (y : PortState) (sc : Scope) (n : Nat) (e : EntryId) :
    (s.setPort p y).backwardCount sc n e = s.backwardCount sc n e := by
  induction n generalizing e with
  | zero => rfl
  | succ n ih =>
    have : (fun x => (s.setPort p y).backwardCount sc n x + 1) = fun x => s.backwardCount sc n x + 1 := by
      funext x; rw [ih]
    exact congrArg (fun f => maxOf ((s.linkersOf sc e).map f)) this
@[simp] theorem State.backwardCount_endFrame (s : State) (p : Port) (sc : Scope) (n : Nat) (e : EntryId) :
    (s.endFrame p).backwardCount sc n e = s.backwardCount sc n e := State.backwardCount_setPort ..

@[simp] theorem State.forwardCount_setPort (s : State) (p : Port) (y : PortState) (l : Option EntryId) :
    (s.setPort p y).forwardCount l = s.forwardCount l := by simp [State.forwardCount]
@[simp] theorem State.forwardCount_endFrame (s : State) (p : Port) (l : Option EntryId) :
    (s.endFrame p).forwardCount l = s.forwardCount l := State.forwardCount_setPort ..

@[simp] theorem State.linkOk_setPort (s : State) (p : Port) (y : PortState) (sc : Scope) (e : EntryId) (l : Option EntryId) :
    (s.setPort p y).linkOk sc e l = s.linkOk sc e l := by
  have h : (s.setPort p y).linkInScope sc l = s.linkInScope sc l := rfl
  simp [State.linkOk, h]
@[simp] theorem State.linkOk_endFrame (s : State) (p : Port) (sc : Scope) (e : EntryId) (l : Option EntryId) :
    (s.endFrame p).linkOk sc e l = s.linkOk sc e l := State.linkOk_setPort ..

@[simp] theorem State.checkContents_setPort (s : State) (p : Port) (y : PortState) (sc : Scope) (e : EntryId) (raw : RawEntry) :
    (s.setPort p y).checkContents sc e raw = s.checkContents sc e raw := by
  simp [State.checkContents]
@[simp] theorem State.checkContents_endFrame (s : State) (p : Port) (sc : Scope) (e : EntryId) (raw : RawEntry) :
    (s.endFrame p).checkContents sc e raw = s.checkContents sc e raw := State.checkContents_setPort ..

@[simp] theorem State.targetInScope_setPort (s : State) (p : Port) (y : PortState) (sc : Scope) (a : MonitorAction) :
    (s.setPort p y).targetInScope sc a = s.targetInScope sc a := rfl
@[simp] theorem State.targetInScope_endFrame (s : State) (p : Port) (sc : Scope) (a : MonitorAction) :
    (s.endFrame p).targetInScope sc a = s.targetInScope sc a := State.targetInScope_setPort ..

@[simp] theorem State.checkMonitor_setPort (s : State) (p : Port) (y : PortState) (sc : Scope) (raw : RawMonitor) :
    (s.setPort p y).checkMonitor sc raw = s.checkMonitor sc raw := rfl
@[simp] theorem State.checkMonitor_endFrame (s : State) (p : Port) (sc : Scope) (raw : RawMonitor) :
    (s.endFrame p).checkMonitor sc raw = s.checkMonitor sc raw := State.checkMonitor_setPort ..

@[simp] theorem State.readSubject_setPort (s : State) (p : Port) (y : PortState) (raw : RawSubject) :
    (s.setPort p y).readSubject raw = s.readSubject raw := by
  cases raw with
  | entrySet e c => simp [State.readSubject, State.readEntrySet]
  | _ => rfl
@[simp] theorem State.readSubject_endFrame (s : State) (p : Port) (raw : RawSubject) :
    (s.endFrame p).readSubject raw = s.readSubject raw := State.readSubject_setPort ..

@[simp] theorem State.selected_setPort (s : State) (p : Port) (y : PortState) (tr : Trigger) :
    (s.setPort p y).selected tr = s.selected tr := rfl
@[simp] theorem State.selected_endFrame (s : State) (p : Port) (tr : Trigger) :
    (s.endFrame p).selected tr = s.selected tr := State.selected_setPort ..

@[simp] theorem State.capture_setPort (s : State) (p : Port) (y : PortState) (first count : Nat) :
    (s.setPort p y).capture first count = s.capture first count := rfl
@[simp] theorem State.capture_endFrame (s : State) (p : Port) (first count : Nat) :
    (s.endFrame p).capture first count = s.capture first count := State.capture_setPort ..

@[simp] theorem State.isCurrent_setPort (s : State) (p : Port) (y : PortState) (c : Copy) :
    (s.setPort p y).isCurrent c = s.isCurrent c := rfl
@[simp] theorem State.isCurrent_endFrame (s : State) (p : Port) (c : Copy) :
    (s.endFrame p).isCurrent c = s.isCurrent c := State.isCurrent_setPort ..

@[simp] theorem State.atQuota_setPort (s : State) (p : Port) (y : PortState) (o : Origin) :
    (s.setPort p y).atQuota o = s.atQuota o := rfl
@[simp] theorem State.atQuota_endFrame (s : State) (p : Port) (o : Origin) :
    (s.endFrame p).atQuota o = s.atQuota o := State.atQuota_setPort ..

@[simp] theorem State.switchBusy_setPort (s : State) (p : Port) (y : PortState) (raw : RawSubject) :
    (s.setPort p y).switchBusy raw = s.switchBusy raw := rfl
@[simp] theorem State.switchBusy_endFrame (s : State) (p : Port) (raw : RawSubject) :
    (s.endFrame p).switchBusy raw = s.switchBusy raw := State.switchBusy_setPort ..

@[simp] theorem State.voteDeadline_setPort (s : State) (p : Port) (y : PortState) :
    (s.setPort p y).voteDeadline = s.voteDeadline := rfl
@[simp] theorem State.voteDeadline_endFrame (s : State) (p : Port) :
    (s.endFrame p).voteDeadline = s.voteDeadline := State.voteDeadline_setPort ..

@[simp] theorem State.after_setPort (s : State) (p : Port) (y : PortState) (n : Nat) :
    (s.setPort p y).after n = s.after n := rfl
@[simp] theorem State.after_endFrame (s : State) (p : Port) (n : Nat) :
    (s.endFrame p).after n = s.after n := State.after_setPort ..

end Sys2Proof.Machine
end

