-- ==== Sys2Proof/Laws/Ports.lean ====
section
/-! SUPPORT. What a frame's end does: judging, the owning block's answer in the slot, and the session timer. -/

namespace Sys2Proof.Machine

/-! ### Indices and bytes -/

@[simp] theorem indexOf_ofNat_fin32 (e : Fin 32) : indexOf 32 (BitVec.ofNat 8 e.val) = some e := by
  revert e; decide

@[simp] theorem indexOf_ofNat_fin12 (m : Fin 12) : indexOf 12 (BitVec.ofNat 8 m.val) = some m := by
  revert m; decide

@[simp] theorem indexOf_ofNat_fin4 (k : Fin 4) : indexOf 4 (BitVec.ofNat 8 k.val) = some k := by
  revert k; decide

theorem indexOf_eq_none {n : Nat} {b : Byte} (h : n ≤ b.toNat) : indexOf n b = none := by
  simp [indexOf, Nat.not_lt.mpr h]

/-! ### Judging -/

theorem judges_of_judged {s : State} {p : Port} (h : Judged s p) : s.judges p = true := by
  simp [State.judges, h.1, h.2]

theorem judges_of_not_judged {s : State} {p : Port} (h : ¬Judged s p) : s.judges p = false := by
  by_contra hc
  apply h
  simpa [State.judges, Judged] using hc

/-- The session timer's restart changes the deadline of its port, to the value that `restarted` says. -/
theorem restart_eq (s : State) (p : Port) :
    s.restart p = s.setPort p { s.port p with deadline := (s.port p).restarted s.timebase } := by
  unfold State.restart PortState.restarted
  by_cases h : (s.port p).attached = true ∧ (s.port p).timeout ≠ 0
  · rw [if_pos (by simpa using h), if_pos h]
    rfl
  · rw [if_neg (by simpa using h), if_neg h]
    exact (State.setPort_port s p).symm

theorem place_eq (s : State) (p : Port) (r : Response) : s.place p r = s.setPort p { s.port p with slot := r } := rfl

theorem endFrame_eq (s : State) (p : Port) :
    s.endFrame p = s.setPort p { s.port p with frame := .idle, gap := 0 } := rfl

theorem dropFrame_eq (s : State) (p : Port) : s.dropFrame p = s.setPort p { s.port p with frame := .idle } := rfl

/-- A judged frame: the block acts, and its port takes the answer and the restarted deadline. -/
theorem answer_judged {s : State} {p : Port} (h : Judged s p) (tag code : Byte) (block : State → State × Answer) :
    s.answer p tag code block =
      (block (s.endFrame p)).1.setPort p { (block (s.endFrame p)).1.port p with
        slot := ⟨tag, code, (block (s.endFrame p)).2.status, (block (s.endFrame p)).2.data⟩
        deadline := ((block (s.endFrame p)).1.port p).restarted (block (s.endFrame p)).1.timebase } := by
  rw [State.answer, if_pos (judges_of_judged h), restart_eq, place_eq]
  simp [PortState.restarted]

/-- A frame that is not judged only ends. -/
theorem answer_not_judged {s : State} {p : Port} (h : ¬Judged s p) (tag code : Byte)
    (block : State → State × Answer) : s.answer p tag code block = s.dropFrame p := by
  rw [State.answer, judges_of_not_judged h]
  rfl

@[simp] theorem port_endFrame_self (s : State) (p : Port) :
    (s.endFrame p).port p = { s.port p with frame := .idle, gap := 0 } := by
  simp [endFrame_eq]

/-- An attached port's judged frame. -/
theorem answerAttached_served {s : State} {p : Port} (h : Serves s p) (tag code : Byte)
    (block : State → State × Answer) : s.answerAttached p tag code block = s.answer p tag code block := by
  have : ifAttached p block (s.endFrame p) = block (s.endFrame p) := by
    simp [ifAttached, h.2]
  rw [State.answerAttached, State.answer, State.answer, this]

/-- A detached port's judged frame of a command that needs an attached port. -/
theorem answerAttached_detached {s : State} {p : Port} (h : Judged s p) (hd : (s.port p).attached = false)
    (tag code : Byte) (block : State → State × Answer) :
    s.answerAttached p tag code block =
      s.setPort p { s.port p with slot := ⟨tag, code, .notAttached, []⟩, frame := .idle, gap := 0 } := by
  rw [State.answerAttached, answer_judged h]
  simp [ifAttached, hd, PortState.restarted, Answer.bare, endFrame_eq]

/-- A served command whose block leaves the ports, up to the frame's end: the state the block makes of `s`, answered. -/
theorem answerAttached_eq_answered {s : State} {p : Port} (h : Serves s p) {tag code : Byte}
    {block : State → State × Answer} {t : State} {st : Status} {data : List Byte}
    (hb : block (s.endFrame p) = (t.setPort p { s.port p with frame := .idle, gap := 0 }, ⟨st, data⟩))
    (hp : t.port p = s.port p) (ht : t.timebase = s.timebase) :
    s.answerAttached p tag code block = t.answered p ⟨tag, code, st, data⟩ := by
  rw [answerAttached_served h, answer_judged h.1, hb]
  simp [State.answered, PortState.answered, PortState.restarted, hp, ht]

/-- A served command that changes nothing beyond its answer. -/
theorem answerAttached_unchanged {s : State} {p : Port} (h : Serves s p) {tag code : Byte}
    {block : State → State × Answer} {st : Status} {data : List Byte}
    (hb : block (s.endFrame p) = (s.endFrame p, ⟨st, data⟩)) :
    s.answerAttached p tag code block = s.answered p ⟨tag, code, st, data⟩ :=
  answerAttached_eq_answered h (by rw [hb]; rfl) rfl rfl

/-- A served command whose block replaces its own port alone. -/
theorem answerAttached_setPort {s : State} {p : Port} (h : Serves s p) {tag code : Byte}
    {block : State → State × Answer} {f : PortState → PortState} {st : Status} {data : List Byte}
    (hb : block (s.endFrame p) = ((s.endFrame p).setPort p (f ((s.endFrame p).port p)), ⟨st, data⟩)) :
    s.answerAttached p tag code block = s.setPort p { f { s.port p with frame := .idle, gap := 0 } with
      slot := ⟨tag, code, st, data⟩
      deadline := (f { s.port p with frame := .idle, gap := 0 }).restarted s.timebase } := by
  rw [answerAttached_served h, answer_judged h.1, hb]
  simp [endFrame_eq]

/-! ### Records routed to a port -/

/-- A notice changes the event queue alone, of a recipient that is attached. -/
theorem PortState.receive_eq (x : PortState) (b : Bool) (n : Notice) (now : Time) :
    x.receive b n now =
      { x with events := if b = true ∧ x.attached = true then enqueue x.events n now else x.events } := by
  rcases x with ⟨att, _, _, _, _, _, _, _, _, _, _⟩
  cases b <;> cases att <;> rfl

@[simp] theorem PortState.receive_false (x : PortState) (n : Notice) (now : Time) : x.receive false n now = x := rfl

/-- A notice of a session's change reaches the other ports that subscribe to PEER. -/
theorem State.port_tellPeers (s : State) (p q : Port) (d : PeerDetail) (n : BitVec 8) :
    (s.tellPeers p d n).port q =
      (s.port q).receive (if q = p then false else (s.port q).subs.peer) (.peer p d n) s.timebase := by
  simp only [State.tellPeers, State.port_raise, portsBut, PerPort.get_set, State.subscribed, PerPort.get_mapIdx]
  rfl

/-! ### Slots captured -/

/-- The indices between two bounds, in ascending order. -/
theorem range_filter_between {n f c : Nat} (h : f + c ≤ n) :
    ((List.range n).filter fun i => decide (f ≤ i) && decide (i < f + c)) = (List.range c).map (f + ·) := by
  obtain ⟨d, rfl⟩ := Nat.exists_eq_add_of_le h
  rw [Nat.add_assoc, List.range_add, List.range_add, List.map_append, List.filter_append, List.filter_append]
  have h1 : ((List.range f).filter fun i => decide (f ≤ i) && decide (i < f + c)) = [] := by
    rw [List.filter_eq_nil_iff]
    intro i hi
    have := List.mem_range.1 hi
    simp
    omega
  have h2 : (((List.range c).map (f + ·)).filter fun i => decide (f ≤ i) && decide (i < f + c)) =
      (List.range c).map (f + ·) := by
    rw [List.filter_eq_self]
    intro i hi
    obtain ⟨j, hj, rfl⟩ := List.mem_map.1 hi
    have := List.mem_range.1 hj
    simp
    omega
  have h3 : ((((List.range d).map (c + ·)).map (f + ·)).filter fun i => decide (f ≤ i) && decide (i < f + c)) =
      [] := by
    rw [List.filter_eq_nil_iff]
    intro i hi
    simp only [List.mem_map] at hi
    obtain ⟨_, ⟨j, _, rfl⟩, rfl⟩ := hi
    simp
  rw [h1, h2, h3, List.nil_append, List.append_nil]

/-- A capture holds the `count` slots from `first` upward, in order. -/
theorem capture_indices (s : State) {first count : Nat} (h : first + count ≤ 64) :
    (s.capture first count).map (·.1.val) = (List.range count).map (first + ·) := by
  rw [← range_filter_between h, State.capture, List.map_map]
  have h1 : (List.finRange 64).map (fun i => i.val) = List.range 64 := by simp
  rw [← h1, List.filter_map]
  rfl

/-! ### Subscription sets -/

theorem readSubs_of_lt {b : Byte} (h : b.toNat < 32) :
    readSubs b = some ⟨b.getLsbD 0, b.getLsbD 1, b.getLsbD 2, b.getLsbD 3, b.getLsbD 4⟩ := by
  simp [readSubs, h]

theorem readSubs_of_le {b : Byte} (h : 32 ≤ b.toNat) : readSubs b = none := by
  simp [readSubs, Nat.not_lt.mpr h]

theorem subsByte_readSubs : ∀ b : Byte, b.toNat < 32 →
    subsByte ⟨b.getLsbD 0, b.getLsbD 1, b.getLsbD 2, b.getLsbD 3, b.getLsbD 4⟩ = b := by
  decide

end Sys2Proof.Machine
end

