-- ==== Sys2Proof/Laws/Events.lean ====
section
/-! SUPPORT. What the shared operations of the Arbiter, the converter and the Sampling Clock do. -/

namespace Sys2Proof.Machine

/-! ### Events -/

theorem unlessHeld_released {s : State} (h : s.resetHeld = false) (f : State → State) : s.unlessHeld f = f s := by
  rw [State.unlessHeld, h]
  rfl

theorem unlessHeld_held {s : State} (h : s.resetHeld = true) (f : State → State) : s.unlessHeld f = s := by
  rw [State.unlessHeld, h]
  rfl

/-- The end of the converter's work: counted out. -/
theorem workDue_iff {s : State} : s.workDue = true ↔ s.work = some 0 := by
  simp [State.workDue]

/-- A notice of the Sampling Clock reaches the ports that subscribe to CLOCK. -/
theorem State.port_raise_subscribed (s u : State) (n : Notice) (kind : Subscriptions → Bool) (q : Port) :
    (s.raise n (u.subscribed kind)).port q = (s.port q).receive (kind (u.port q).subs) n s.timebase := by
  rw [State.port_raise, State.subscribed, PerPort.get_mapIdx]
  rfl

/-- A notice raised to an item's notice set reaches the owner that subscribes, or the subscribed ports. -/
theorem State.get_noticeSet (s : State) (st : ItemState) (kind : Subscriptions → Bool) (q : Port) :
    (s.noticeSet st kind).get q = match st with
      | .scoped (.own p) => decide (q = p) && kind (s.port q).subs
      | .scoped .common => kind (s.port q).subs
      | .free => false
      | .reserved => false := by
  rw [State.noticeSet, PerPort.get_mapIdx]
  rcases st with _ | _ | (p | _)
  · rfl
  · rfl
  · cases q <;> cases p <;> rfl
  · rfl

/-! ### The Arbiter -/

/-- The ticket the Arbiter chooses waits in the queue. -/
theorem choose_mem {aging : BitVec 8} {now : Time} {q : List Ticket} {k : Ticket} (h : choose aging now q = some k) :
    k ∈ q := by
  induction q with
  | nil => simp [choose] at h
  | cons t ts ih =>
    rw [choose] at h
    rcases hc : choose aging now ts with _ | u
    · simp [hc] at h
      simp [h]
    · rw [hc] at h ih
      simp only at h
      split at h
      · simp at h
        subst h
        simp [ih rfl]
      · simp at h
        simp [h]

/-- The Arbiter chooses a ticket whenever one waits. -/
theorem choose_isSome {aging : BitVec 8} {now : Time} {q : List Ticket} (h : q ≠ []) :
    (choose aging now q).isSome = true := by
  cases q with
  | nil => exact absurd rfl h
  | cons t ts =>
    rw [choose]
    cases choose aging now ts with
    | none => rfl
    | some u =>
      simp only
      split <;> rfl

/-- The Arbiter does nothing while the converter is not IDLE. -/
theorem consult_of_busy {s : State} (h : s.converter ≠ .idle) : s.consult = s := by
  unfold State.consult
  split
  · rename_i hh
    exact absurd hh h
  all_goals rfl

/-- The Arbiter does nothing while no ticket waits. -/
theorem consult_of_empty {s : State} (h : s.queue = []) : s.consult = s := by
  unfold State.consult
  split
  · rw [h]
    rfl
  all_goals rfl

/-- The Arbiter dispatches its choice, when the entry of the ticket is in a scope. -/
theorem consult_of_choice {s : State} {k : Ticket} {sc : Scope} (h : s.converter = .idle)
    (hk : choose s.aging s.timebase s.queue = some k) (he : (s.entry k.entry).state = .scoped sc) :
    s.consult = s.dispatched k sc := by
  have hf : s.queue.filter (fun t => t.entry != k.entry) = s.queue.filter fun t => decide (t.entry ≠ k.entry) :=
    List.filter_congr fun t _ => by by_cases ht : t.entry = k.entry <;> simp [ht]
  unfold State.consult
  rw [h]
  simp only [hk, State.dispatch, he, State.dropTicket, State.dispatched, hf]
  rfl

/-- With a ticket waiting under the law of the queue, the Arbiter dispatches its choice. -/
theorem QueueLaw.consult {s : State} (hq : QueueLaw s) {k : Ticket} (h : s.converter = .idle)
    (hk : choose s.aging s.timebase s.queue = some k) :
    ∃ sc, (s.entry k.entry).state = .scoped sc ∧ s.consult = s.dispatched k sc := by
  have hs := hq.scope k (choose_mem hk)
  rcases he : (s.entry k.entry).state with _ | _ | sc
  · rw [he] at hs; cases hs
  · rw [he] at hs; cases hs
  · exact ⟨sc, rfl, consult_of_choice h hk he⟩

/-- A consultation changes the queue, the converter and its work alone. -/
theorem consult_frame (s : State) :
    s.consult = { s with queue := s.consult.queue, converter := s.consult.converter,
                           work := s.consult.work } := by
  unfold State.consult
  split
  · split
    · unfold State.dispatch
      split <;> rfl
    · rfl
  all_goals rfl

end Sys2Proof.Machine
end

