-- ==== Sys2Proof/Laws/Delivery.lean ====
section
/-! SUPPORT. What a trigger, a monitor's evaluation, the delivery of a result and the stages of a clock switch can change. -/

namespace Sys2Proof.Machine

/-! ### Entries but for their counts -/

/-- The entry is the other one but for its overrun and drop counts and its overrun pending. -/
def Entry.SameButCounts (x y : Entry) : Prop :=
  x = { y with overruns := x.overruns, drops := x.drops, overrunPending := x.overrunPending }

theorem Entry.SameButCounts.refl (x : Entry) : x.SameButCounts x := rfl

theorem Entry.SameButCounts.trans {x y z : Entry} (h1 : x.SameButCounts y) (h2 : y.SameButCounts z) :
    x.SameButCounts z := by
  rcases x; rcases y; rcases z
  simp_all [Entry.SameButCounts]

/-- A port is the other one but for the records in its event queue. -/
def PortState.SameButEvents (x y : PortState) : Prop := x = { y with events := x.events }

theorem PortState.SameButEvents.refl (x : PortState) : x.SameButEvents x := rfl

theorem PortState.SameButEvents.trans {x y z : PortState} (h1 : x.SameButEvents y) (h2 : y.SameButEvents z) :
    x.SameButEvents z := by
  rcases x; rcases y; rcases z
  simp_all [PortState.SameButEvents]

theorem raise_sameButEvents (s : State) (n : Notice) (who : PortSet) (q : Port) :
    ((s.raise n who).port q).SameButEvents (s.port q) := by
  rw [State.port_raise, PortState.receive_eq]
  rfl

/-! ### What triggers and evaluations reach -/

/-- From `s` to `t` only counts of entries, monitors, the queue of tickets, the arrival counter and event queues have
changed: what a trigger and an evaluation can do. -/
structure Reaches (s t : State) : Prop where
  rest : t = { s with entries := t.entries, monitors := t.monitors, queue := t.queue, arrival := t.arrival,
                      ports := t.ports }
  entry : ∀ e, (t.entry e).SameButCounts (s.entry e)
  port : ∀ q, (t.port q).SameButEvents (s.port q)

theorem Reaches.refl (s : State) : Reaches s s := ⟨rfl, fun _ => .refl _, fun _ => .refl _⟩

theorem Reaches.trans {s t u : State} (h1 : Reaches s t) (h2 : Reaches t u) : Reaches s u := by
  refine ⟨?_, fun e => (h2.entry e).trans (h1.entry e), fun q => (h2.port q).trans (h1.port q)⟩
  have a := h1.rest
  have b := h2.rest
  rcases s; rcases t; rcases u
  simp_all

theorem Reaches.raise (s : State) (n : Notice) (who : PortSet) : Reaches s (s.raise n who) :=
  ⟨rfl, fun _ => .refl _, raise_sameButEvents s n who⟩

theorem Reaches.setEntry (s : State) (e : EntryId) {x : Entry} (h : x.SameButCounts (s.entry e)) :
    Reaches s (s.setEntry e x) := by
  refine ⟨rfl, fun i => ?_, fun _ => .refl _⟩
  rw [State.entry_setEntry]
  by_cases hi : i = e
  · subst hi
    rw [if_pos rfl]
    exact h
  · rw [if_neg hi]
    exact .refl _

/-- A trigger's decision. -/
theorem Reaches.trigger (s : State) (e : EntryId) (o : Origin) : Reaches s (s.trigger e o).1 := by
  unfold State.trigger
  split
  · split
    · exact Reaches.setEntry s e
        (x := { s.entry e with overruns := satInc (s.entry e).overruns, overrunPending := true }) rfl
    · split
      · exact .refl s
      · split
        · show Reaches s (s.dropTrigger e o)
          unfold State.dropTrigger
          split
          · exact .refl s
          · exact (Reaches.setEntry s e (x := { s.entry e with drops := satInc (s.entry e).drops }) rfl).trans
              (Reaches.raise _ _ _)
        · exact ⟨rfl, fun _ => .refl _, fun _ => .refl _⟩
  · exact .refl s

/-- The triggers of one event. -/
theorem Reaches.triggerAll (s : State) (es : List EntryId) (o : Origin) : Reaches s (s.triggerAll es o) := by
  unfold State.triggerAll
  induction es generalizing s with
  | nil => exact .refl s
  | cons e es ih => exact (Reaches.trigger s e o).trans (ih _)

/-- A crossing. -/
theorem Reaches.crossing (s : State) (m : MonId) (old new : Zone) (v : BitVec 16) :
    Reaches s (s.crossing m old new v) := by
  unfold State.crossing
  split
  · simp only
    split
    · exact Reaches.raise _ _ _
    · exact (Reaches.raise _ _ _).trans (Reaches.trigger _ _ _)
  · exact .refl s

/-- An evaluation changes a monitor's zone, candidate and crossing count only. -/
theorem evaluate_frame (m : Monitor) (v : Int) : (evaluate m v).1 =
    { m with zone := (evaluate m v).1.zone, candidate := (evaluate m v).1.candidate, crossings := (evaluate m v).1.crossings } := by
  rcases m with ⟨c, st, r, z, cand, n⟩
  cases z with
  | none => rfl
  | some old =>
    simp only [evaluate]
    split
    · rfl
    · split <;> rfl

/-- Which crossings an edge mode matches. -/
theorem crossingMatches_iff (edge : MonitorEdge) (old new : Zone) : crossingMatches edge old new = true ↔
    edge = .anyChange ∨ edge = .enterAbove ∧ new = .above ∨ edge = .enterBelow ∧ new = .below ∨
      edge = .leaveInside ∧ old = .inside := by
  cases edge <;> simp [crossingMatches]

/-- One monitor's evaluation. -/
theorem Reaches.evaluateOne (s : State) (i : SlotId) (v : BitVec 16) (m : MonId) : Reaches s (s.evaluateOne i v m) := by
  unfold State.evaluateOne
  split
  · simp only
    have h : Reaches s (s.setMonitor m (evaluate (s.monitor m) v.toInt).1) :=
      ⟨rfl, fun _ => .refl _, fun _ => .refl _⟩
    split
    · exact h.trans (Reaches.crossing _ _ _ _ _)
    · exact h
  · exact .refl s

/-- The evaluations at one slot write. -/
theorem Reaches.evaluateAll (s : State) (i : SlotId) (v : BitVec 16) : Reaches s (s.evaluateAll i v) := by
  unfold State.evaluateAll
  generalize List.finRange 12 = l
  induction l generalizing s with
  | nil => exact .refl s
  | cons m l ih => exact (Reaches.evaluateOne s i v m).trans (ih _)

/-! ### The delivery of a result -/

theorem Reaches.completionNotice (s : State) (c : Copy) (n v : BitVec 16) : Reaches s (s.completionNotice c n v) := by
  unfold State.completionNotice
  split
  · exact Reaches.raise _ _ _
  · exact .refl s

theorem slots_writeResult (s : State) (c : Copy) (v : BitVec 16) (full : Bool) :
    (s.writeResult c v full).slots = s.slots.set c.dest (s.resultRecord c v full) := by
  unfold State.writeResult
  simp only
  split <;> rfl

theorem entry_writeResult (s : State) (c : Copy) (v : BitVec 16) (full : Bool) (e : EntryId) :
    ((s.writeResult c v full).entry e).SameButCounts (s.entry e) := by
  unfold State.writeResult
  simp only
  split
  · rw [State.entry_setEntry]
    by_cases h : e = c.entry
    · subst h
      rw [if_pos rfl]
      rfl
    · rw [if_neg h]
      rfl
  · rfl

/-- The delivery of a result writes one slot record, and otherwise does what evaluations can do. -/
theorem slots_deliver (s : State) (c : Copy) (v : BitVec 16) (full : Bool) :
    (s.deliver c v full).slots = s.slots.set c.dest (s.resultRecord c v full) := by
  unfold State.deliver
  simp only
  rw [(Reaches.evaluateAll _ _ _).rest, (Reaches.completionNotice _ _ _ _).rest]
  exact slots_writeResult s c v full

theorem entry_deliver (s : State) (c : Copy) (v : BitVec 16) (full : Bool) (e : EntryId) :
    ((s.deliver c v full).entry e).SameButCounts (s.entry e) :=
  ((Reaches.evaluateAll _ _ _).entry e).trans
    (((Reaches.completionNotice _ _ _ _).entry e).trans (entry_writeResult s c v full e))

/-! ### The converter's work ends -/

/-- From `s` to `t` only the converter with its work, the queue of tickets, the Sampling Clock and event queues have
changed: what the Arbiter and a clock switch can do. -/
structure Switches (s t : State) : Prop where
  rest : t = { s with converter := t.converter, work := t.work, queue := t.queue, clock := t.clock, ports := t.ports }
  port : ∀ q, (t.port q).SameButEvents (s.port q)

theorem Switches.refl (s : State) : Switches s s := ⟨rfl, fun _ => .refl _⟩

theorem Switches.trans {s t u : State} (h1 : Switches s t) (h2 : Switches t u) : Switches s u := by
  refine ⟨?_, fun q => (h2.port q).trans (h1.port q)⟩
  have a := h1.rest
  have b := h2.rest
  rcases s; rcases t; rcases u
  simp_all

theorem Switches.raise (s : State) (n : Notice) (who : PortSet) : Switches s (s.raise n who) :=
  ⟨rfl, raise_sameButEvents s n who⟩

theorem Switches.consult (s : State) : Switches s s.consult := by
  refine ⟨by rw [consult_frame], fun q => ?_⟩
  have h : s.consult.ports = s.ports := by rw [consult_frame]
  simp only [State.port, h]
  rfl

/-- The loop after a successful switch: a LOCKED one is stopped unless it is the source. -/
theorem loopAfter_eq (l : Loop) (mode : ClockMode) :
    loopAfter l mode = if mode ≠ .multiplied ∧ l = .locked then .stopped else l := by
  cases mode <;> cases l <;> rfl

theorem Switches.switchDone (s : State) (r : ClockSetting) : Switches s (s.switchDone r) :=
  ⟨rfl, fun q => raise_sameButEvents _ _ _ q⟩

theorem Switches.switchFailed (s : State) (r : ClockSetting) (c : SwitchCause) :
    Switches s (s.switchFailed r c) := by
  unfold State.switchFailed
  refine Switches.trans (t := { s with
    clock := { s.clock with phase := .none, deadline := none, run := none }, converter := .idle, work := none }) ?_
    ((Switches.consult _).trans (Switches.raise _ _ _))
  exact ⟨rfl, fun _ => .refl _⟩

theorem Switches.endDraining (s : State) (r : ClockSetting) : Switches s (s.endDraining r) := by
  unfold State.endDraining
  refine Switches.trans
    (t := { s with converter := .held, work := none, clock := { s.clock with phase := .acquiring r } })
    ⟨rfl, fun _ => .refl _⟩ ?_
  unfold State.acquire
  split
  · split
    · exact Switches.switchFailed _ _ _
    · exact Switches.switchDone _ _
  · split
    · exact Switches.switchDone _ _
    · exact ⟨rfl, fun _ => .refl _⟩
    · exact ⟨rfl, fun _ => .refl _⟩

theorem Switches.workEnds (s : State) : Switches s s.workEnds := by
  unfold State.workEnds
  have h : Switches s ({ s with converter := .idle, work := none }) := ⟨rfl, fun _ => .refl _⟩
  split
  · exact Switches.endDraining _ _
  · exact h.trans (Switches.consult _)
  · exact h.trans (Switches.consult _)

theorem Switches.startSwitch (s : State) (r : ClockSetting) : Switches s (s.startSwitch r) := by
  unfold State.startSwitch
  have h : Switches s ({ s with clock := { s.clock with phase := .draining r } }) := ⟨rfl, fun _ => .refl _⟩
  split
  · exact .refl s
  · simp only
    split
    · exact h.trans (Switches.endDraining _ _)
    all_goals exact h

theorem Switches.decideChain (s : State) (c : Copy) : Switches s (s.decideChain c) := by
  unfold State.decideChain
  split
  · exact Switches.workEnds _
  · split
    · split
      · exact (Switches.raise _ _ _).trans (Switches.workEnds _)
      · exact Switches.workEnds _
    · split
      · split
        · exact (Switches.raise _ _ _).trans (Switches.workEnds _)
        · exact ⟨rfl, fun _ => .refl _⟩
      · exact Switches.workEnds _

/-- A clock switch and the Arbiter leave the slots and the entries. -/
theorem Switches.slotAt {s t : State} (h : Switches s t) (i : SlotId) : t.slotAt i = s.slotAt i := by
  rw [h.rest]
  rfl

theorem Switches.entry {s t : State} (h : Switches s t) (e : EntryId) : t.entry e = s.entry e := by
  rw [h.rest]
  rfl

end Sys2Proof.Machine
end

