-- ==== Sys2Proof/Laws/Plan.lean ====
section
/-! SUPPORT. What the shared operations on tickets, entries and monitors do: the discarding of a ticket, a trigger, the
retargeting of monitors, and the release procedure. -/

namespace Sys2Proof.Machine

/-! ### Tickets -/

theorem ticketOf_isSome_iff (s : State) (e : EntryId) : (s.ticketOf e).isSome = true ↔ ∃ k ∈ s.queue, k.entry = e := by
  simp [State.ticketOf, List.find?_isSome]

theorem filter_of_no_ticket {s : State} {e : EntryId} (h : s.ticketOf e = none) :
    (s.queue.filter fun t => t.entry != e) = s.queue := by
  rw [List.filter_eq_self]
  intro t ht
  simp only [State.ticketOf, List.find?_eq_none] at h
  simpa [bne] using h t ht

/-- The discarding of a ticket changes the queue and the event queues alone. -/
theorem discardTicket_frame (s : State) (e : EntryId) (c : Option DiscardCause) :
    s.discardTicket e c =
      { s with queue := s.queue.filter fun t => t.entry != e, ports := (s.discardTicket e c).ports } := by
  unfold State.discardTicket
  split
  · rfl
  · rfl
  · rename_i h
    rw [filter_of_no_ticket h]

@[simp] theorem entry_discardTicket (s : State) (e x : EntryId) (c : Option DiscardCause) :
    (s.discardTicket e c).entry x = s.entry x := by
  rw [discardTicket_frame]
  rfl

@[simp] theorem monitor_discardTicket (s : State) (e : EntryId) (m : MonId) (c : Option DiscardCause) :
    (s.discardTicket e c).monitor m = s.monitor m := by
  rw [discardTicket_frame]
  rfl

@[simp] theorem queue_discardTicket (s : State) (e : EntryId) (c : Option DiscardCause) :
    (s.discardTicket e c).queue = s.queue.filter fun t => t.entry != e := by
  rw [discardTicket_frame]

/-- Without a cause to tell, no port changes. -/
theorem port_discardTicket_silent (s : State) (e : EntryId) (q : Port) : (s.discardTicket e none).port q = s.port q := by
  unfold State.discardTicket
  rcases s.ticketOf e <;> rfl

/-- With a cause, the notice reaches the entry's notice set when a ticket waited. -/
theorem port_discardTicket (s : State) (e : EntryId) (c : DiscardCause) (q : Port) :
    (s.discardTicket e (some c)).port q =
      (s.port q).receive ((s.ticketOf e).isSome && (s.noticeSet (s.entry e).state (·.loss)).get q) (.discarded e c)
        s.timebase := by
  unfold State.discardTicket
  rcases s.ticketOf e with _ | k
  · rfl
  · simp only [State.port_raise, Option.isSome_some, Bool.true_and]
    rfl

/-! ### Chains of updates -/

/-- Two updates of monitors and ports make one. -/
theorem monitors_ports_trans {s t u : State} (h1 : t = { s with monitors := t.monitors, ports := t.ports })
    (h2 : u = { t with monitors := u.monitors, ports := u.ports }) :
    u = { s with monitors := u.monitors, ports := u.ports } := by
  rcases s; rcases t; rcases u
  simp_all

/-- Two updates of entries, monitors, the queue and ports make one. -/
theorem plan_trans {s t u : State}
    (h1 : t = { s with entries := t.entries, monitors := t.monitors, queue := t.queue, ports := t.ports })
    (h2 : u = { t with entries := u.entries, monitors := u.monitors, queue := u.queue, ports := u.ports }) :
    u = { s with entries := u.entries, monitors := u.monitors, queue := u.queue, ports := u.ports } := by
  rcases s; rcases t; rcases u
  simp_all

/-! ### Retargeting (R129) -/

/-- Monitor `m` is in a scope and targets entry `e`. -/
def State.targets (s : State) (m : MonId) (e : EntryId) : Bool :=
  (s.monitor m).state.inScope && (s.monitor m).contents.action == .notifyAndTrigger e

/-- The monitor without its target. -/
def Monitor.untargeted (x : Monitor) : Monitor := { x with contents := { x.contents with action := .notify } }

theorem retargetOne_frame (s : State) (e : EntryId) (b : Bool) (m : MonId) :
    s.retargetOne e b m =
      { s with monitors := (s.retargetOne e b m).monitors, ports := (s.retargetOne e b m).ports } := by
  unfold State.retargetOne
  split
  · cases b <;> rfl
  · rfl

theorem monitor_retargetOne (s : State) (e : EntryId) (b : Bool) (m i : MonId) :
    (s.retargetOne e b m).monitor i =
      if i = m ∧ s.targets m e = true then (s.monitor i).untargeted else s.monitor i := by
  unfold State.retargetOne
  by_cases h : s.targets m e = true
  · rw [if_pos (show ((s.monitor m).state.inScope && (s.monitor m).contents.action == .notifyAndTrigger e) = true from h)]
    have : ∀ u : State, u.monitor i = (s.setMonitor m (s.monitor m).untargeted).monitor i →
        u.monitor i = if i = m ∧ s.targets m e = true then (s.monitor i).untargeted else s.monitor i := by
      intro u hu
      rw [hu, State.monitor_setMonitor]
      by_cases hi : i = m
      · subst hi; simp [h]
      · simp [hi]
    apply this
    cases b <;> rfl
  · rw [if_neg (show ¬((s.monitor m).state.inScope && (s.monitor m).contents.action == .notifyAndTrigger e) = true from h),
      if_neg (fun hc => h hc.2)]

theorem port_retargetOne (s : State) (e : EntryId) (b : Bool) (m : MonId) (q : Port) :
    (s.retargetOne e b m).port q =
      (s.port q).receive (b && s.targets m e && (s.noticeSet (s.monitor m).state (·.monitor)).get q)
        (.monitor m .retargeted (BitVec.ofNat 16 e.val)) s.timebase := by
  unfold State.retargetOne
  by_cases h : s.targets m e = true
  · rw [if_pos (show ((s.monitor m).state.inScope && (s.monitor m).contents.action == .notifyAndTrigger e) = true from h)]
    cases b
    · rfl
    · simp only [if_true, State.port_raise, Bool.true_and, h]
      rfl
  · rw [if_neg (show ¬((s.monitor m).state.inScope && (s.monitor m).contents.action == .notifyAndTrigger e) = true from h)]
    simp [h]

theorem retarget_fold (e : EntryId) (b : Bool) (l : List MonId) (hl : l.Nodup) (s : State) :
    l.foldl (State.retargetOne e b) s =
        { s with monitors := (l.foldl (State.retargetOne e b) s).monitors
                 ports := (l.foldl (State.retargetOne e b) s).ports } ∧
      (∀ i, (l.foldl (State.retargetOne e b) s).monitor i =
        if i ∈ l ∧ s.targets i e = true then (s.monitor i).untargeted else s.monitor i) ∧
      (∀ q, (l.foldl (State.retargetOne e b) s).port q = { s.port q with
        events := if (s.port q).attached = true then
            (l.filter fun m => b && s.targets m e && (s.noticeSet (s.monitor m).state (·.monitor)).get q).foldl
              (fun ev m => enqueue ev (.monitor m .retargeted (BitVec.ofNat 16 e.val)) s.timebase) (s.port q).events
          else (s.port q).events }) := by
  induction l generalizing s with
  | nil => exact ⟨rfl, by simp, by simp⟩
  | cons m l ih =>
    obtain ⟨hm, hl⟩ := List.nodup_cons.1 hl
    obtain ⟨h1, h2, h3⟩ := ih hl (s.retargetOne e b m)
    have hmon : ∀ i, i ≠ m → (s.retargetOne e b m).monitor i = s.monitor i := by
      intro i hi
      rw [monitor_retargetOne, if_neg (fun hc => hi hc.1)]
    have htar : ∀ i, i ≠ m → (s.retargetOne e b m).targets i e = s.targets i e := by
      intro i hi
      rw [State.targets, hmon i hi]
      rfl
    refine ⟨monitors_ports_trans (retargetOne_frame s e b m) h1, ?_, ?_⟩
    · intro i
      rw [List.foldl_cons, h2]
      by_cases hi : i = m
      · subst hi
        rw [if_neg (fun hc => hm hc.1), monitor_retargetOne]
        simp
      · rw [htar i hi, hmon i hi]
        simp [hi]
    · intro q
      rw [List.foldl_cons, h3, port_retargetOne, PortState.receive_eq]
      have htb : (s.retargetOne e b m).timebase = s.timebase := by rw [retargetOne_frame]
      have hsub : ((s.retargetOne e b m).port q).subs = (s.port q).subs := by
        rw [port_retargetOne, PortState.receive_eq]
      have hns : ∀ i ∈ l, ((s.retargetOne e b m).noticeSet ((s.retargetOne e b m).monitor i).state (·.monitor)).get q =
          (s.noticeSet (s.monitor i).state (·.monitor)).get q := by
        intro i hi
        have : i ≠ m := fun hc => hm (hc ▸ hi)
        rw [hmon i this, State.get_noticeSet, State.get_noticeSet, hsub]
      have hfil : (l.filter fun i => b && (s.retargetOne e b m).targets i e &&
            ((s.retargetOne e b m).noticeSet ((s.retargetOne e b m).monitor i).state (·.monitor)).get q) =
          l.filter fun i => b && s.targets i e && (s.noticeSet (s.monitor i).state (·.monitor)).get q := by
        apply List.filter_congr
        intro i hi
        rw [hns i hi, htar i (fun hc => hm (hc ▸ hi))]
      rw [hfil, htb]
      by_cases ha : (s.port q).attached = true
      · by_cases hc : (b && s.targets m e && (s.noticeSet (s.monitor m).state (·.monitor)).get q) = true
        · simp only [List.filter_cons, hc, ha, if_true, and_self, List.foldl_cons]
        · simp only [List.filter_cons, hc, ha, if_false, false_and, Bool.false_eq_true, if_true]
      · simp [ha]

theorem retarget_frame (s : State) (e : EntryId) (b : Bool) :
    s.retarget e b = { s with monitors := (s.retarget e b).monitors, ports := (s.retarget e b).ports } :=
  (retarget_fold e b _ (List.nodup_finRange 12) s).1

@[simp] theorem entry_retarget (s : State) (e x : EntryId) (b : Bool) : (s.retarget e b).entry x = s.entry x := by
  have h : (s.retarget e b).entries = s.entries := by rw [retarget_frame]
  simp only [State.entry, h]

theorem monitor_retarget (s : State) (e : EntryId) (b : Bool) (i : MonId) :
    (s.retarget e b).monitor i = if s.targets i e = true then (s.monitor i).untargeted else s.monitor i := by
  rw [State.retarget, (retarget_fold e b _ (List.nodup_finRange 12) s).2.1]
  simp

theorem port_retarget (s : State) (e : EntryId) (b : Bool) (q : Port) :
    (s.retarget e b).port q = { s.port q with
      events := if (s.port q).attached = true then
          ((List.finRange 12).filter fun m =>
              b && s.targets m e && (s.noticeSet (s.monitor m).state (·.monitor)).get q).foldl
            (fun ev m => enqueue ev (.monitor m .retargeted (BitVec.ofNat 16 e.val)) s.timebase) (s.port q).events
        else (s.port q).events } :=
  (retarget_fold e b _ (List.nodup_finRange 12) s).2.2 q

/-- Without notices, no port changes. -/
theorem port_retarget_silent (s : State) (e : EntryId) (q : Port) : (s.retarget e false).port q = s.port q := by
  rw [port_retarget]
  simp

/-! ### The release procedure (R16) -/

/-- The state before the monitors are retargeted. -/
def State.unlinked (s : State) (e : EntryId) (b : Bool) : State :=
  (s.discardTicket e (if b then some .released else none)).removeLinks e (s.entry e).state

theorem leaveScope_eq (s : State) (e : EntryId) (b : Bool) :
    s.leaveScope e b = ((s.unlinked e b).retarget e b).setEntry e (s.entry e).release := rfl

theorem unlinked_frame (s : State) (e : EntryId) (b : Bool) :
    s.unlinked e b = { s with
      entries := (s.unlinked e b).entries, queue := s.queue.filter fun t => t.entry != e
      ports := (s.unlinked e b).ports } := by
  unfold State.unlinked
  have h := discardTicket_frame s e (if b then some .released else none)
  generalize s.discardTicket e _ = t at h ⊢
  rw [h]
  rfl

@[simp] theorem monitor_unlinked (s : State) (e : EntryId) (b : Bool) (m : MonId) :
    (s.unlinked e b).monitor m = s.monitor m := by
  rw [unlinked_frame]
  rfl

@[simp] theorem targets_unlinked (s : State) (e : EntryId) (b : Bool) (m : MonId) :
    (s.unlinked e b).targets m e = s.targets m e := by
  rw [State.targets, monitor_unlinked]
  rfl

theorem entry_unlinked (s : State) (e x : EntryId) (b : Bool) :
    (s.unlinked e b).entry x =
      if (s.entry x).state = (s.entry e).state ∧ (s.entry x).contents.link = some e then
        { s.entry x with contents := { (s.entry x).contents with link := none } }
      else s.entry x := by
  rw [State.unlinked, State.entry_removeLinks]
  simp only [entry_discardTicket]

theorem leaveScope_frame (s : State) (e : EntryId) (b : Bool) :
    s.leaveScope e b = { s with
      entries := (s.leaveScope e b).entries, monitors := (s.leaveScope e b).monitors
      queue := (s.leaveScope e b).queue, ports := (s.leaveScope e b).ports } := by
  have h1 : s.unlinked e b = { s with
      entries := (s.unlinked e b).entries, monitors := (s.unlinked e b).monitors
      queue := (s.unlinked e b).queue, ports := (s.unlinked e b).ports } := by
    rw [unlinked_frame]
  have h2 : (s.unlinked e b).retarget e b = { s.unlinked e b with
      entries := ((s.unlinked e b).retarget e b).entries, monitors := ((s.unlinked e b).retarget e b).monitors
      queue := ((s.unlinked e b).retarget e b).queue, ports := ((s.unlinked e b).retarget e b).ports } := by
    rw [retarget_frame]
  have h3 : ∀ t : State, t.setEntry e (s.entry e).release = { t with
      entries := (t.setEntry e (s.entry e).release).entries, monitors := (t.setEntry e (s.entry e).release).monitors
      queue := (t.setEntry e (s.entry e).release).queue, ports := (t.setEntry e (s.entry e).release).ports } :=
    fun _ => rfl
  exact plan_trans h1 (plan_trans h2 (h3 _))

theorem queue_leaveScope (s : State) (e : EntryId) (b : Bool) :
    (s.leaveScope e b).queue = s.queue.filter fun t => t.entry != e := by
  rw [leaveScope_eq, State.queue_setEntry, retarget_frame, unlinked_frame]

theorem entry_leaveScope (s : State) (e x : EntryId) (b : Bool) :
    (s.leaveScope e b).entry x =
      if x = e then .free ((s.entry e).revision + 1)
      else if (s.entry x).state = (s.entry e).state ∧ (s.entry x).contents.link = some e then
        { s.entry x with contents := { (s.entry x).contents with link := none } }
      else s.entry x := by
  rw [leaveScope_eq, State.entry_setEntry, entry_retarget, entry_unlinked]
  rfl

theorem monitor_leaveScope (s : State) (e : EntryId) (b : Bool) (m : MonId) :
    (s.leaveScope e b).monitor m = if s.targets m e = true then (s.monitor m).untargeted else s.monitor m := by
  rw [leaveScope_eq, State.monitor_setEntry, monitor_retarget, monitor_unlinked, targets_unlinked]

/-- Without notices, no port changes. -/
theorem port_leaveScope_silent (s : State) (e : EntryId) (q : Port) : (s.leaveScope e false).port q = s.port q := by
  rw [leaveScope_eq, State.port_setEntry, port_retarget_silent, State.unlinked, State.port_removeLinks]
  exact port_discardTicket_silent s e q

/-- With notices, an attached port hears of the discarded ticket and then of each retargeted monitor. -/
theorem port_leaveScope (s : State) (e : EntryId) (q : Port) :
    (s.leaveScope e true).port q = { s.port q with
      events := if (s.port q).attached = true then
          ((List.finRange 12).filter fun m =>
              s.targets m e && (s.noticeSet (s.monitor m).state (·.monitor)).get q).foldl
            (fun ev m => enqueue ev (.monitor m .retargeted (BitVec.ofNat 16 e.val)) s.timebase)
            (if ((s.ticketOf e).isSome && (s.noticeSet (s.entry e).state (·.loss)).get q) = true then
              enqueue (s.port q).events (.discarded e .released) s.timebase else (s.port q).events)
        else (s.port q).events } := by
  have hport : (s.unlinked e true).port q = (s.port q).receive
      ((s.ticketOf e).isSome && (s.noticeSet (s.entry e).state (·.loss)).get q) (.discarded e .released) s.timebase :=
    port_discardTicket s e .released q
  rw [PortState.receive_eq] at hport
  have hsub : ((s.unlinked e true).port q).subs = (s.port q).subs := by rw [hport]
  have hns : ∀ m, ((s.unlinked e true).noticeSet (s.monitor m).state (·.monitor)).get q =
      (s.noticeSet (s.monitor m).state (·.monitor)).get q := by
    intro m
    rw [State.get_noticeSet, State.get_noticeSet, hsub]
  have htb : (s.unlinked e true).timebase = s.timebase := by rw [unlinked_frame]
  rw [leaveScope_eq, State.port_setEntry, port_retarget]
  simp only [targets_unlinked, monitor_unlinked, hns, htb, Bool.true_and, hport]
  by_cases ha : (s.port q).attached = true
  · simp [ha]
  · simp [ha]

end Sys2Proof.Machine
end

