-- ==== Sys2Proof/Laws/Sessions.lean ====
section
/-! SUPPORT. What a session end does: the items of the port are freed, without notices, and the other ports are told. -/

namespace Sys2Proof.Machine

/-- Entry `e` is PRIVATE to port `p`. -/
abbrev State.owns (s : State) (p : Port) (e : EntryId) : Prop := (s.entry e).state = .ownedBy p

/-- No monitor in a scope targets an entry of port `p`. -/
def State.untargetedBy (s : State) (p : Port) : Prop := ∀ m e, s.owns p e → s.targets m e = false

theorem freeEntry_owned {s : State} {p : Port} {e : EntryId} (h : s.owns p e) :
    s.freeEntry p e = s.leaveScope e false := by
  rw [State.freeEntry, if_pos (show (s.entry e).state = .ownedBy p from h)]

theorem freeEntry_other {s : State} {p : Port} {e : EntryId} (h : ¬s.owns p e) : s.freeEntry p e = s := by
  rw [State.freeEntry, if_neg (show ¬(s.entry e).state = .ownedBy p from h)]

theorem freeEntry_frame (s : State) (p : Port) (e : EntryId) :
    s.freeEntry p e = { s with
      entries := (s.freeEntry p e).entries, monitors := (s.freeEntry p e).monitors
      queue := (s.freeEntry p e).queue, ports := (s.freeEntry p e).ports } := by
  by_cases h : s.owns p e
  · rw [freeEntry_owned h]
    exact leaveScope_frame s e false
  · rw [freeEntry_other h]

theorem port_freeEntry (s : State) (p : Port) (e : EntryId) (q : Port) : (s.freeEntry p e).port q = s.port q := by
  by_cases h : s.owns p e
  · rw [freeEntry_owned h]
    exact port_leaveScope_silent s e q
  · rw [freeEntry_other h]

theorem monitor_freeEntry {s : State} {p : Port} (ht : s.untargetedBy p) (e : EntryId) (m : MonId) :
    (s.freeEntry p e).monitor m = s.monitor m := by
  by_cases h : s.owns p e
  · rw [freeEntry_owned h, monitor_leaveScope, if_neg (by rw [ht m e h]; exact Bool.false_ne_true)]
  · rw [freeEntry_other h]

/-- An entry that stays keeps all but, when it is PRIVATE to the port too, a link to the entry that left. -/
theorem entry_freeEntry_of_ne (s : State) (p : Port) {e x : EntryId} (hx : x ≠ e) :
    ((s.freeEntry p e).entry x).state = (s.entry x).state ∧
      ((s.freeEntry p e).entry x).revision = (s.entry x).revision ∧
      (¬s.owns p x → (s.freeEntry p e).entry x = s.entry x) := by
  by_cases h : s.owns p e
  · rw [freeEntry_owned h, entry_leaveScope, if_neg hx]
    have hs : (s.entry e).state = .ownedBy p := h
    by_cases hc : (s.entry x).state = (s.entry e).state ∧ (s.entry x).contents.link = some e
    · rw [if_pos hc]
      exact ⟨rfl, rfl, fun hn => absurd (hc.1.trans hs) hn⟩
    · rw [if_neg hc]
      exact ⟨rfl, rfl, fun _ => rfl⟩
  · rw [freeEntry_other h]
    exact ⟨rfl, rfl, fun _ => rfl⟩

theorem entry_freeEntry_self (s : State) (p : Port) (e : EntryId) :
    (s.freeEntry p e).entry e = if s.owns p e then .free ((s.entry e).revision + 1) else s.entry e := by
  by_cases h : s.owns p e
  · rw [freeEntry_owned h, if_pos h, entry_leaveScope, if_pos rfl]
  · rw [freeEntry_other h, if_neg h]

theorem queue_freeEntry (s : State) (p : Port) (e : EntryId) :
    (s.freeEntry p e).queue = if s.owns p e then s.queue.filter (fun t => t.entry != e) else s.queue := by
  by_cases h : s.owns p e
  · rw [freeEntry_owned h, if_pos h, queue_leaveScope]
  · rw [freeEntry_other h, if_neg h]

theorem free_not_owned {st : Entry} (r : BitVec 8) (h : st = .free r) (p : Port) : st.state ≠ .ownedBy p := by
  subst h
  exact fun hc => ItemState.noConfusion hc

theorem owns_freeEntry (s : State) (p : Port) (e x : EntryId) :
    (s.freeEntry p e).owns p x ↔ s.owns p x ∧ x ≠ e := by
  by_cases hx : x = e
  · subst hx
    simp only [ne_eq, not_true, and_false, iff_false]
    show ¬((s.freeEntry p x).entry x).state = .ownedBy p
    rw [entry_freeEntry_self]
    by_cases h : s.owns p x
    · rw [if_pos h]
      exact free_not_owned _ rfl p
    · rw [if_neg h]
      exact h
  · rw [State.owns, (entry_freeEntry_of_ne s p hx).1]
    exact ⟨fun h => ⟨h, hx⟩, fun h => h.1⟩

theorem untargetedBy_freeEntry {s : State} {p : Port} (ht : s.untargetedBy p) (e : EntryId) :
    (s.freeEntry p e).untargetedBy p := by
  intro m x hx
  rw [State.targets, monitor_freeEntry ht]
  exact ht m x ((owns_freeEntry s p e x).1 hx).1

theorem freeEntries_fold (p : Port) (l : List EntryId) (hl : l.Nodup) (s : State) (ht : s.untargetedBy p) :
    (∀ x, x ∈ l → s.owns p x → (l.foldl (State.freeEntry p) s).entry x = .free ((s.entry x).revision + 1)) ∧
      (∀ x, ¬s.owns p x → (l.foldl (State.freeEntry p) s).entry x = s.entry x) ∧
      (∀ m, (l.foldl (State.freeEntry p) s).monitor m = s.monitor m) ∧
      (∀ q, (l.foldl (State.freeEntry p) s).port q = s.port q) ∧
      (l.foldl (State.freeEntry p) s).queue =
        s.queue.filter (fun k => !(decide (k.entry ∈ l) && (s.entry k.entry).state == .ownedBy p)) ∧
      l.foldl (State.freeEntry p) s = { s with
        entries := (l.foldl (State.freeEntry p) s).entries, monitors := (l.foldl (State.freeEntry p) s).monitors
        queue := (l.foldl (State.freeEntry p) s).queue, ports := (l.foldl (State.freeEntry p) s).ports } := by
  induction l generalizing s with
  | nil => exact ⟨by simp, by simp, fun _ => rfl, fun _ => rfl, by simp, rfl⟩
  | cons e l ih =>
    obtain ⟨he, hl⟩ := List.nodup_cons.1 hl
    obtain ⟨h1, h2, h3, h4, h5, h6⟩ := ih hl (s.freeEntry p e) (untargetedBy_freeEntry ht e)
    refine ⟨?_, ?_, ?_, ?_, ?_, plan_trans (freeEntry_frame s p e) h6⟩
    · intro x hx ho
      rw [List.foldl_cons]
      by_cases hxe : x = e
      · subst hxe
        rw [h2 x (fun hc => ((owns_freeEntry s p x x).1 hc).2 rfl), entry_freeEntry_self, if_pos ho]
      · rw [h1 x (by simpa [hxe] using hx) ((owns_freeEntry s p e x).2 ⟨ho, hxe⟩),
          (entry_freeEntry_of_ne s p hxe).2.1]
    · intro x ho
      rw [List.foldl_cons, h2 x (fun hc => ho ((owns_freeEntry s p e x).1 hc).1)]
      by_cases hxe : x = e
      · subst hxe
        rw [entry_freeEntry_self, if_neg ho]
      · exact (entry_freeEntry_of_ne s p hxe).2.2 ho
    · intro m
      rw [List.foldl_cons, h3, monitor_freeEntry ht]
    · intro q
      rw [List.foldl_cons, h4, port_freeEntry]
    · rw [List.foldl_cons, h5, queue_freeEntry]
      have key : ∀ k : Ticket, k.entry ≠ e →
          (!(decide (k.entry ∈ l) && ((s.freeEntry p e).entry k.entry).state == .ownedBy p)) =
            !(decide (k.entry ∈ e :: l) && (s.entry k.entry).state == .ownedBy p) := by
        intro k hk
        rw [(entry_freeEntry_of_ne s p hk).1]
        simp [hk]
      by_cases ho : s.owns p e
      · rw [if_pos ho, List.filter_filter]
        apply List.filter_congr
        intro k _
        by_cases hk : k.entry = e
        · have : (s.entry e).state = .ownedBy p := ho
          simp [hk, this]
        · rw [key k hk]
          simp [hk]
      · rw [if_neg ho]
        apply List.filter_congr
        intro k _
        by_cases hk : k.entry = e
        · have : ¬(s.entry e).state = .ownedBy p := ho
          simp [hk, this, he]
        · exact key k hk

/-- The freeing of a port's entries: each is FREE with its revision raised, and their tickets are gone. -/
theorem freeEntries_spec (s : State) (p : Port) (ht : s.untargetedBy p) :
    (∀ x, (s.freeEntries p).entry x =
        if (s.entry x).state = .ownedBy p then .free ((s.entry x).revision + 1) else s.entry x) ∧
      (∀ m, (s.freeEntries p).monitor m = s.monitor m) ∧ (∀ q, (s.freeEntries p).port q = s.port q) ∧
      (s.freeEntries p).queue = s.queue.filter (fun k => (s.entry k.entry).state ≠ .ownedBy p) ∧
      s.freeEntries p = { s with
        entries := (s.freeEntries p).entries, monitors := (s.freeEntries p).monitors
        queue := (s.freeEntries p).queue, ports := (s.freeEntries p).ports } := by
  obtain ⟨h1, h2, h3, h4, h5, h6⟩ := freeEntries_fold p (List.finRange 32) (List.nodup_finRange 32) s ht
  refine ⟨fun x => ?_, h3, h4, ?_, h6⟩
  · by_cases h : (s.entry x).state = .ownedBy p
    · rw [if_pos h]
      exact h1 x (List.mem_finRange x) h
    · rw [if_neg h]
      exact h2 x h
  · rw [State.freeEntries, h5]
    apply List.filter_congr
    intro k _
    by_cases h : (s.entry k.entry).state = .ownedBy p <;> simp [h]

/-- Under the law of links, a freed monitor targets nothing of the port, and no other monitor ever did. -/
theorem untargetedBy_freeMonitors {s : State} (h : LinkLaw s) (p : Port) : (s.freeMonitors p).untargetedBy p := by
  intro m e ho
  have ho' : (s.entry e).state = .ownedBy p := ho
  rw [State.targets, State.monitor_freeMonitors]
  by_cases hm : (s.monitor m).state = .ownedBy p
  · rw [if_pos hm]
    rfl
  · rw [if_neg hm]
    by_contra hc
    simp only [Bool.not_eq_false, Bool.and_eq_true, beq_iff_eq] at hc
    rcases hst : (s.monitor m).state with _ | _ | sc
    · simp [hst, ItemState.inScope] at hc
    · simp [hst, ItemState.inScope] at hc
    · have := h.target m sc e hst hc.2
      rw [ho'] at this
      cases this
      exact hm hst

/-- A session end up to step 6 of R181: the port leaves, its items are freed, and the other ports are told. -/
theorem sessionEnded_of_linkLaw {s : State} (h : LinkLaw s) (p : Port) (d : PeerDetail) :
    SessionEnded s (((s.setPort p (s.port p).leave).freeItems p).tellPeers p d (s.port p).number) p d
      (s.port p).leave := by
  have ht : (s.setPort p (s.port p).leave |>.freeMonitors p).untargetedBy p := untargetedBy_freeMonitors (s := s) h p
  obtain ⟨h1, h2, h3, h4, h5⟩ := freeEntries_spec _ p ht
  have htb : ((s.setPort p (s.port p).leave).freeItems p).timebase = s.timebase := by
    rw [State.freeItems, h5]
    rfl
  have hport : ∀ q, ((s.setPort p (s.port p).leave).freeItems p).port q =
      if q = p then (s.port p).leave else s.port q := by
    intro q
    rw [State.freeItems, h3, State.port_freeMonitors, State.port_setPort]
  refine ⟨?_, ?_, ?_, ?_, ?_, ?_⟩
  · rw [State.port_tellPeers, if_pos rfl, hport, if_pos rfl]
    rfl
  · intro q hq
    rw [State.port_tellPeers, if_neg hq, hport, if_neg hq, htb]
  · intro e
    rw [State.tellPeers, State.entry_raise, State.freeItems, h1, State.entry_freeMonitors, State.entry_setPort]
  · intro m
    rw [State.tellPeers, State.monitor_raise, State.freeItems, h2, State.monitor_freeMonitors, State.monitor_setPort]
  · rw [State.tellPeers, State.queue_raise, State.freeItems, h4, State.queue_freeMonitors, State.queue_setPort]
    rfl
  · have : ∀ t : State, t = { s with
        entries := t.entries, monitors := t.monitors, queue := t.queue, ports := t.ports } →
      t.tellPeers p d (s.port p).number = { s with
        entries := (t.tellPeers p d (s.port p).number).entries, monitors := (t.tellPeers p d (s.port p).number).monitors
        queue := (t.tellPeers p d (s.port p).number).queue, ports := (t.tellPeers p d (s.port p).number).ports } :=
      fun t h => plan_trans h rfl
    exact this _ (plan_trans (t := (s.setPort p (s.port p).leave).freeMonitors p) rfl h5)

end Sys2Proof.Machine
end

