-- ==== Sys2Proof/Laws/Proposals.lean ====
section
/-! SUPPORT. What the close and the installation of a proposal can change. -/

namespace Sys2Proof.Machine

/-! ### Votes -/

theorem noPort_iff (x : PortSet) : noPort x = true ↔ ∀ p, x.get p = false := by
  rcases x with ⟨a, b, c⟩
  constructor
  · intro h p
    cases a <;> cases b <;> cases c <;> first | (cases p <;> rfl) | exact absurd h (by decide)
  · intro h
    have ha := h .a
    have hb := h .b
    have hc := h .c
    simp only [PerPort.get] at ha hb hc
    subst ha; subst hb; subst hc
    rfl

/-- Nobody is outstanding exactly when every required voter has accepted. -/
theorem outstanding_eq_zero_iff (pr : Proposal) :
    pr.outstanding = 0 ↔ ∀ p, pr.required.get p = true → pr.accepted.get p = true := by
  simp only [Proposal.outstanding, List.countP_eq_zero, allPorts]
  constructor
  · intro h p hp
    have := h p (by cases p <;> simp)
    simpa [hp] using this
  · intro h p _
    by_cases hp : pr.required.get p = true
    · simp [h p hp]
    · simp [hp]

/-! ### Ports -/

theorem discardTicket_sameButEvents (s : State) (e : EntryId) (c : Option DiscardCause) (q : Port) :
    ((s.discardTicket e c).port q).SameButEvents (s.port q) := by
  cases c with
  | none => rw [port_discardTicket_silent]; rfl
  | some c => rw [port_discardTicket, PortState.receive_eq]; rfl

theorem leaveScope_sameButEvents (s : State) (e : EntryId) (b : Bool) (q : Port) :
    ((s.leaveScope e b).port q).SameButEvents (s.port q) := by
  cases b with
  | false => rw [port_leaveScope_silent]; rfl
  | true => rw [port_leaveScope]; rfl

/-- An installation changes no port but in its event queue. -/
theorem install_sameButEvents (s : State) (x : Subject) (q : Port) :
    ((s.install x).port q).SameButEvents (s.port q) := by
  cases x with
  | entrySet e c =>
    show ((s.installEntry e c).port q).SameButEvents _
    unfold State.installEntry
    split
    · rfl
    · rfl
    · rw [State.port_setEntry]
      exact discardTicket_sameButEvents s e _ q
    · rfl
  | entryRemove e => exact leaveScope_sameButEvents s e true q
  | monitorSet m c =>
    show ((s.installMonitor m c).port q).SameButEvents _
    unfold State.installMonitor
    split <;> rfl
  | clockSet r => exact (Switches.startSwitch s r).port q
  | monitorRemove m => rfl
  | timerSet k period run => rfl
  | pinSet k edge => rfl
  | agingSet period => rfl
  | windowSet window => rfl

/-- An installation leaves the time, the result slots, the proposals, the reset, and the commands that wait. -/
theorem install_frame (s : State) (x : Subject) :
    s.install x = { s with
      entries := (s.install x).entries, monitors := (s.install x).monitors, timers := (s.install x).timers,
      pins := (s.install x).pins, queue := (s.install x).queue, aging := (s.install x).aging,
      converter := (s.install x).converter, work := (s.install x).work, clock := (s.install x).clock,
      ports := (s.install x).ports, window := (s.install x).window } := by
  cases x with
  | entrySet e c =>
    have h : ∀ t, t = s.installEntry e c → t = { s with
        entries := t.entries, monitors := t.monitors, timers := t.timers, pins := t.pins, queue := t.queue,
        aging := t.aging, converter := t.converter, work := t.work, clock := t.clock, ports := t.ports,
        window := t.window } := by
      intro t ht
      unfold State.installEntry at ht
      split at ht
      · rw [ht]; rfl
      · rw [ht]; rfl
      · rw [ht, discardTicket_frame]; rfl
      · rw [ht]
    exact h _ rfl
  | entryRemove e =>
    have h := leaveScope_frame s e true
    show s.leaveScope e true = { s with
      entries := (s.leaveScope e true).entries, monitors := (s.leaveScope e true).monitors
      timers := (s.leaveScope e true).timers, pins := (s.leaveScope e true).pins
      queue := (s.leaveScope e true).queue, aging := (s.leaveScope e true).aging
      converter := (s.leaveScope e true).converter, work := (s.leaveScope e true).work
      clock := (s.leaveScope e true).clock, ports := (s.leaveScope e true).ports
      window := (s.leaveScope e true).window }
    generalize s.leaveScope e true = t at h
    rw [h]
  | monitorSet m c =>
    have h : ∀ t, t = s.installMonitor m c → t = { s with
        entries := t.entries, monitors := t.monitors, timers := t.timers, pins := t.pins, queue := t.queue,
        aging := t.aging, converter := t.converter, work := t.work, clock := t.clock, ports := t.ports,
        window := t.window } := by
      intro t ht
      unfold State.installMonitor at ht
      split at ht
      · rw [ht]; rfl
      · rw [ht]; rfl
      · rw [ht]; rfl
      · rw [ht]
    exact h _ rfl
  | clockSet r =>
    have h := (Switches.startSwitch s r).rest
    show s.startSwitch r = { s with
      entries := (s.startSwitch r).entries, monitors := (s.startSwitch r).monitors
      timers := (s.startSwitch r).timers, pins := (s.startSwitch r).pins
      queue := (s.startSwitch r).queue, aging := (s.startSwitch r).aging
      converter := (s.startSwitch r).converter, work := (s.startSwitch r).work
      clock := (s.startSwitch r).clock, ports := (s.startSwitch r).ports
      window := (s.startSwitch r).window }
    generalize s.startSwitch r = t at h
    rw [h]
  | monitorRemove m => rfl
  | timerSet k period run => rfl
  | pinSet k edge => rfl
  | agingSet period => rfl
  | windowSet window => rfl

theorem ports_unreserve (s : State) (x : Subject) : (s.unreserve x).ports = s.ports := by
  cases x with
  | entrySet e c =>
    show State.ports (if _ then _ else _) = _
    split <;> rfl
  | monitorSet m c =>
    show State.ports (if _ then _ else _) = _
    split <;> rfl
  | _ => rfl

theorem ports_reserve (s : State) (x : Subject) : (s.reserve x).ports = s.ports := by
  cases x with
  | entrySet e c =>
    show State.ports (if _ then _ else _) = _
    split <;> rfl
  | monitorSet m c =>
    show State.ports (if _ then _ else _) = _
    split <;> rfl
  | _ => rfl

/-- A close changes no port but in its event queue. -/
theorem close_sameButEvents (s : State) (pr : Proposal) (o : ProposalOutcome) (q : Port) :
    ((s.close pr o).port q).SameButEvents (s.port q) := by
  have hu : ∀ (t : State) x, ((t.unreserve x).port q).SameButEvents (t.port q) := by
    intro t x
    simp only [State.port, ports_unreserve]
    rfl
  have hr : (((({ s with proposal := none } : State).raise (.proposal pr.id o pr.author) pr.parties)).port
      q).SameButEvents (s.port q) := raise_sameButEvents _ _ _ q
  unfold State.close
  cases o with
  | adopted => exact (install_sameButEvents _ _ q).trans hr
  | opened => exact hr
  | refused => exact (hu _ _).trans hr
  | expired => exact (hu _ _).trans hr
  | withdrawn => exact (hu _ _).trans hr

/-- What a session end does to the open proposal changes no port but in its event queue. -/
theorem partyLeaves_sameButEvents (s : State) (p q : Port) :
    ((s.partyLeaves p).port q).SameButEvents (s.port q) := by
  unfold State.partyLeaves
  split
  · rfl
  · split
    · exact close_sameButEvents _ _ _ q
    · split
      · split
        · exact close_sameButEvents _ _ _ q
        · rfl
      · rfl

theorem PortState.SameButEvents.attached {x y : PortState} (h : x.SameButEvents y) : x.attached = y.attached := by
  rw [h]

theorem PortState.SameButEvents.frame {x y : PortState} (h : x.SameButEvents y) : x.frame = y.frame := by
  rw [h]

end Sys2Proof.Machine
end

