-- ==== Sys2Proof/Laws/FrameEnd.lean ====
section
/-! SUPPORT. The end of a frame and the routing of notices do not touch one another: an installation acts alike before and
after it. -/

namespace Sys2Proof.Machine

theorem port_endFrame (s : State) (p q : Port) :
    (s.endFrame p).port q = if q = p then { s.port p with frame := .idle, gap := 0 } else s.port q := by
  rw [endFrame_eq, State.port_setPort]

@[simp] theorem subs_endFrame (s : State) (p q : Port) : ((s.endFrame p).port q).subs = (s.port q).subs := by
  rw [port_endFrame]
  by_cases h : q = p
  · subst h; rw [if_pos rfl]
  · rw [if_neg h]

@[simp] theorem attached_endFrame (s : State) (p q : Port) :
    ((s.endFrame p).port q).attached = (s.port q).attached := by
  rw [port_endFrame]
  by_cases h : q = p
  · subst h; rw [if_pos rfl]
  · rw [if_neg h]

@[simp] theorem noticeSet_endFrame (s : State) (p : Port) (st : ItemState) (kind : Subscriptions → Bool) :
    (s.endFrame p).noticeSet st kind = s.noticeSet st kind := by
  apply PerPort.ext_get
  intro q
  rw [State.get_noticeSet, State.get_noticeSet, subs_endFrame]

@[simp] theorem subscribed_endFrame (s : State) (p : Port) (kind : Subscriptions → Bool) :
    (s.endFrame p).subscribed kind = s.subscribed kind := by
  apply PerPort.ext_get
  intro q
  rw [State.subscribed, State.subscribed, PerPort.get_mapIdx, PerPort.get_mapIdx]
  exact congrArg kind (subs_endFrame s p q)

@[simp] theorem votersFor_endFrame (s : State) (p q : Port) : (s.endFrame p).votersFor q = s.votersFor q := by
  apply PerPort.ext_get
  intro v
  rw [State.votersFor, State.votersFor, PerPort.get_mapIdx, PerPort.get_mapIdx]
  exact congrArg (· && v != q) (attached_endFrame s p v)

theorem raise_endFrame (s : State) (p : Port) (n : Notice) (who : PortSet) :
    (s.endFrame p).raise n who = (s.raise n who).endFrame p := by
  have h : ((s.endFrame p).raise n who).ports = ((s.raise n who).endFrame p).ports := by
    apply PerPort.ext_get
    intro q
    show ((s.endFrame p).raise n who).port q = ((s.raise n who).endFrame p).port q
    rw [State.port_raise, port_endFrame, port_endFrame, State.port_raise, State.port_raise]
    by_cases hq : q = p
    · subst hq
      rw [if_pos rfl, if_pos rfl, PortState.receive_eq, PortState.receive_eq]
      rfl
    · rw [if_neg hq, if_neg hq]
      rfl
  show ({ s with ports := _ } : State) = { s with ports := _ }
  exact congrArg (fun x => ({ s with ports := x } : State)) h

theorem discardTicket_endFrame (s : State) (p : Port) (e : EntryId) (c : Option DiscardCause) :
    (s.endFrame p).discardTicket e c = (s.discardTicket e c).endFrame p := by
  unfold State.discardTicket
  rw [State.ticketOf_endFrame, State.entry_endFrame, noticeSet_endFrame]
  rcases s.ticketOf e with _ | k
  · rfl
  · rcases c with _ | c
    · rfl
    · exact raise_endFrame (s.dropTicket e) p _ _

theorem retargetOne_endFrame (s : State) (p : Port) (e : EntryId) (b : Bool) (m : MonId) :
    (s.endFrame p).retargetOne e b m = (s.retargetOne e b m).endFrame p := by
  unfold State.retargetOne
  rw [State.monitor_endFrame, noticeSet_endFrame]
  split
  · cases b
    · rfl
    · exact raise_endFrame (s.setMonitor m _) p _ _
  · rfl

theorem retarget_endFrame (s : State) (p : Port) (e : EntryId) (b : Bool) :
    (s.endFrame p).retarget e b = (s.retarget e b).endFrame p := by
  unfold State.retarget
  generalize List.finRange 12 = l
  induction l generalizing s with
  | nil => rfl
  | cons m l ih => rw [List.foldl_cons, List.foldl_cons, retargetOne_endFrame, ih]

theorem leaveScope_endFrame (s : State) (p : Port) (e : EntryId) (b : Bool) :
    (s.endFrame p).leaveScope e b = (s.leaveScope e b).endFrame p := by
  have h1 : (s.endFrame p).unlinked e b = (s.unlinked e b).endFrame p := by
    unfold State.unlinked
    rw [discardTicket_endFrame]
    rfl
  have h2 : ((s.endFrame p).unlinked e b).retarget e b = ((s.unlinked e b).retarget e b).endFrame p := by
    rw [h1, retarget_endFrame]
  have h3 : ∀ t : State, (t.endFrame p).setEntry e (s.entry e).release =
      (t.setEntry e (s.entry e).release).endFrame p := fun _ => rfl
  rw [leaveScope_eq s, ← h3, ← h2, leaveScope_eq, State.entry_endFrame]

theorem consult_endFrame (s : State) (p : Port) : (s.endFrame p).consult = s.consult.endFrame p := by
  unfold State.consult
  rw [State.converter_endFrame, State.aging_endFrame, State.timebase_endFrame, State.queue_endFrame]
  split
  · split
    · rename_i t _
      unfold State.dispatch
      rw [State.entry_endFrame]
      split <;> rfl
    · rfl
  all_goals rfl

theorem switchDone_endFrame (s : State) (p : Port) (r : ClockSetting) :
    (s.endFrame p).switchDone r = (s.switchDone r).endFrame p := by
  unfold State.switchDone
  rw [subscribed_endFrame]
  exact raise_endFrame ({ s with
    clock := s.clock.succeed r, converter := .calibrating, work := workLeft r calibrationPeriods }) p _ _

theorem switchFailed_endFrame (s : State) (p : Port) (r : ClockSetting) (c : SwitchCause) :
    (s.endFrame p).switchFailed r c = (s.switchFailed r c).endFrame p := by
  unfold State.switchFailed
  rw [subscribed_endFrame]
  simp only
  refine Eq.trans ?_ (raise_endFrame _ p _ _)
  congr 1
  exact consult_endFrame ({ s with
    clock := { s.clock with phase := .none, deadline := none, run := none }, converter := .idle, work := none }) p

theorem acquire_endFrame (s : State) (p : Port) (r : ClockSetting) :
    (s.endFrame p).acquire r = (s.acquire r).endFrame p := by
  unfold State.acquire
  rw [State.clock_endFrame]
  split
  · split
    · exact switchFailed_endFrame s p r _
    · exact switchDone_endFrame s p r
  · split
    · exact switchDone_endFrame s p r
    · rfl
    · rfl

theorem startSwitch_endFrame (s : State) (p : Port) (r : ClockSetting) :
    (s.endFrame p).startSwitch r = (s.startSwitch r).endFrame p := by
  unfold State.startSwitch
  rw [State.clock_endFrame, State.converter_endFrame]
  split
  · rfl
  · simp only
    split
    · exact acquire_endFrame ({ s with
        converter := .held, work := none, clock := { { s.clock with phase := .draining r } with phase := .acquiring r } }) p r
    all_goals rfl

/-- An installation acts alike before and after the frame's end. -/
theorem install_endFrame (s : State) (p : Port) (x : Subject) :
    (s.endFrame p).install x = (s.install x).endFrame p := by
  cases x with
  | entrySet e c =>
    show (s.endFrame p).installEntry e c = (s.installEntry e c).endFrame p
    unfold State.installEntry
    rw [State.entry_endFrame, discardTicket_endFrame]
    split <;> rfl
  | entryRemove e => exact leaveScope_endFrame s p e true
  | monitorSet m c =>
    show (s.endFrame p).installMonitor m c = (s.installMonitor m c).endFrame p
    unfold State.installMonitor
    rw [State.monitor_endFrame]
    split <;> rfl
  | monitorRemove m => rfl
  | timerSet k period run => rfl
  | pinSet k edge => rfl
  | clockSet r => exact startSwitch_endFrame s p r
  | agingSet period => rfl
  | windowSet window => rfl

end Sys2Proof.Machine
end

