-- ==== Sys2Proof/Laws/Frames.lean ====
section
/-! SUPPORT. The command frame: 16-bit fields and their bytes, and what each shape of argument bytes takes. -/

namespace Sys2Proof

/-! ### 16-bit fields -/

@[simp] theorem high_word16 (a b : Byte) : (word16 a b).extractLsb' 8 8 = a := by
  apply BitVec.eq_of_getLsbD_eq
  intro i hi
  simp only [word16, BitVec.getLsbD_append, BitVec.getLsbD_extractLsb']
  simp [hi]

@[simp] theorem low_word16 (a b : Byte) : (word16 a b).extractLsb' 0 8 = b := by
  apply BitVec.eq_of_getLsbD_eq
  intro i hi
  simp only [word16, BitVec.getLsbD_append, BitVec.getLsbD_extractLsb']
  simp [hi]

@[simp] theorem word16_bytes (x : BitVec 16) : word16 (x.extractLsb' 8 8) (x.extractLsb' 0 8) = x := by
  apply BitVec.eq_of_getLsbD_eq
  intro i hi
  simp only [word16, BitVec.getLsbD_append, BitVec.getLsbD_extractLsb']
  by_cases h : i < 8
  · simp [h]
  · have h2 : i - 8 < 8 := by omega
    have h3 : 8 + (i - 8) = i := by omega
    simp [h, h2, h3]

/-! ### Shapes of argument bytes -/

theorem takeNone_eq {α : Type} {x i : α} {args : List Byte} (h : takeNone x args = some i) : args = [] ∧ i = x := by
  unfold takeNone at h
  split at h <;> simp_all

theorem takeOne_eq {α : Type} {f : Byte → α} {i : α} {args : List Byte} (h : takeOne f args = some i) :
    ∃ x, args = [x] ∧ i = f x := by
  unfold takeOne at h
  split at h <;> simp_all

theorem takeTwo_eq {α : Type} {f : Byte → Byte → α} {i : α} {args : List Byte} (h : takeTwo f args = some i) :
    ∃ x y, args = [x, y] ∧ i = f x y := by
  unfold takeTwo at h
  split at h <;> simp_all

theorem takeEntry_eq {α : Type} {f : Byte → RawEntry → α} {i : α} {args : List Byte}
    (h : takeEntry f args = some i) : ∃ e c, args = e :: rawEntryBytes c ∧ i = f e c := by
  unfold takeEntry at h
  split at h
  · exact ⟨_, _, rfl, (Option.some.inj h).symm⟩
  · cases h

theorem takeMonitor_eq {α : Type} {f : Byte → RawMonitor → α} {i : α} {args : List Byte}
    (h : takeMonitor f args = some i) : ∃ m c, args = m :: rawMonitorBytes c ∧ i = f m c := by
  unfold takeMonitor at h
  split at h
  · exact ⟨_, _, by simp [rawMonitorBytes, be16], (Option.some.inj h).symm⟩
  · cases h

theorem takeTimer_eq {α : Type} {f : Byte → BitVec 16 → Byte → α} {i : α} {args : List Byte}
    (h : takeTimer f args = some i) : ∃ k period run, args = [k] ++ be16 period ++ [run] ∧ i = f k period run := by
  unfold takeTimer at h
  split at h
  · exact ⟨_, _, _, by simp [be16], (Option.some.inj h).symm⟩
  · cases h

theorem byte_of_toNat {b : Byte} {n : Nat} (h : b.toNat = n) : b = BitVec.ofNat 8 n := by
  subst h
  simp

/-- Argument bytes that are read as a subject are the bytes of that subject. -/
theorem subjectBytes_of_subjectOf {b : Byte} {args : List Byte} {x : RawSubject} (h : subjectOf b args = some x) :
    subjectBytes x = b :: args := by
  unfold subjectOf at h
  split at h
  all_goals first
    | (cases h; done)
    | (rename_i hb; rw [byte_of_toNat hb]; obtain ⟨_, rfl, rfl⟩ := takeOne_eq h; rfl)
    | (rename_i hb; rw [byte_of_toNat hb]; obtain ⟨_, _, rfl, rfl⟩ := takeTwo_eq h; rfl)
    | (rename_i hb; rw [byte_of_toNat hb]; obtain ⟨_, _, rfl, rfl⟩ := takeEntry_eq h; rfl)
    | (rename_i hb; rw [byte_of_toNat hb]; obtain ⟨_, _, rfl, rfl⟩ := takeMonitor_eq h; rfl)
    | (rename_i hb; rw [byte_of_toNat hb]; obtain ⟨_, _, _, rfl, rfl⟩ := takeTimer_eq h; rfl)

/-- Argument bytes that are read as a command are the bytes of that command. -/
theorem frameParts_of_commandOf {p : Port} {code tag : Byte} {args : List Byte} {i : Instr}
    (h : commandOf p code tag args = some i) : frameParts i = some (p, code, tag, args) := by
  unfold commandOf at h
  split at h
  case h_20 =>
    rename_i hb
    rw [byte_of_toNat hb]
    unfold proposeOf at h
    split at h
    · cases h
    · rename_i subject rest
      rcases hs : subjectOf subject rest with _ | x
      · rw [hs] at h
        cases h
      · rw [hs] at h
        cases h
        simp [frameParts, subjectBytes_of_subjectOf hs]
  all_goals first
    | (cases h; done)
    | (rename_i hb; rw [byte_of_toNat hb]; obtain ⟨rfl, rfl⟩ := takeNone_eq h; rfl)
    | (rename_i hb; rw [byte_of_toNat hb]; obtain ⟨_, rfl, rfl⟩ := takeOne_eq h; rfl)
    | (rename_i hb; rw [byte_of_toNat hb]; obtain ⟨_, _, rfl, rfl⟩ := takeTwo_eq h; rfl)
    | (rename_i hb; rw [byte_of_toNat hb]; obtain ⟨_, _, rfl, rfl⟩ := takeEntry_eq h; rfl)
    | (rename_i hb; rw [byte_of_toNat hb]; obtain ⟨_, _, rfl, rfl⟩ := takeMonitor_eq h; rfl)

end Sys2Proof
end

