-- ==== Sys2Proof/Laws/PerInstr.lean ====
section
/-! SUPPORT. The family Frame, command by command: the argument bytes of a link command are as many as the link layout
table lists for its code, and are read as that command. -/

namespace Sys2Proof.Laws.Frame

/-- What a frame carries for `i` has the length that the table lists, and is read as `i` (11 section 11.2). -/
def Statement (i : Instr) : Prop :=
  ∀ p code tag args, frameParts i = some (p, code, tag, args) →
    frameArgs code args = .ok args.length ∧ commandOf p code tag args = some i

/-- A command that no frame carries. -/
theorem of_none {i : Instr} (h : frameParts i = none) : Statement i := by
  intro p code tag args hp
  rw [h] at hp
  cases hp

/-- A command that a frame carries. -/
theorem of_some {i : Instr} {p : Port} {code tag : Byte} {args : List Byte}
    (hp : frameParts i = some (p, code, tag, args)) (hn : frameArgs code args = .ok args.length)
    (hc : commandOf p code tag args = some i) : Statement i := by
  intro p' code' tag' args' h
  rw [hp] at h
  cases h
  exact ⟨hn, hc⟩

theorem fetch (p : Port) (tag : Byte) : Statement (.fetch p tag) :=
  of_some rfl (by simp [frameArgs, argCount]) (by simp [commandOf, takeNone])

theorem attach (p : Port) (tag timeout subs : Byte) : Statement (.attach p tag timeout subs) :=
  of_some rfl (by simp [frameArgs, argCount]) (by simp [commandOf, takeTwo])

theorem detach (p : Port) (tag : Byte) : Statement (.detach p tag) :=
  of_some rfl (by simp [frameArgs, argCount]) (by simp [commandOf, takeNone])

theorem subscribe (p : Port) (tag subs : Byte) : Statement (.subscribe p tag subs) :=
  of_some rfl (by simp [frameArgs, argCount]) (by simp [commandOf, takeOne])

theorem readStatus (p : Port) (tag : Byte) : Statement (.readStatus p tag) :=
  of_some rfl (by simp [frameArgs, argCount]) (by simp [commandOf, takeNone])

theorem restate (p : Port) (tag : Byte) : Statement (.restate p tag) :=
  of_some rfl (by simp [frameArgs, argCount]) (by simp [commandOf, takeNone])

theorem claimEntry (p : Port) (tag e : Byte) : Statement (.claimEntry p tag e) :=
  of_some rfl (by simp [frameArgs, argCount]) (by simp [commandOf, takeOne])

theorem writeEntry (p : Port) (tag e : Byte) (contents : RawEntry) : Statement (.writeEntry p tag e contents) :=
  of_some rfl (by simp [frameArgs, argCount, rawEntryBytes]) (by simp [commandOf, takeEntry, rawEntryBytes])

theorem readEntry (p : Port) (tag e : Byte) : Statement (.readEntry p tag e) :=
  of_some rfl (by simp [frameArgs, argCount]) (by simp [commandOf, takeOne])

theorem releaseEntry (p : Port) (tag e : Byte) : Statement (.releaseEntry p tag e) :=
  of_some rfl (by simp [frameArgs, argCount]) (by simp [commandOf, takeOne])

theorem request (p : Port) (tag e : Byte) : Statement (.request p tag e) :=
  of_some rfl (by simp [frameArgs, argCount]) (by simp [commandOf, takeOne])

theorem cancel (p : Port) (tag e : Byte) : Statement (.cancel p tag e) :=
  of_some rfl (by simp [frameArgs, argCount]) (by simp [commandOf, takeOne])

theorem readSlots (p : Port) (tag first count : Byte) : Statement (.readSlots p tag first count) :=
  of_some rfl (by simp [frameArgs, argCount]) (by simp [commandOf, takeTwo])

theorem continueSlots (p : Port) (tag : Byte) : Statement (.continueSlots p tag) :=
  of_some rfl (by simp [frameArgs, argCount]) (by simp [commandOf, takeNone])

theorem claimMonitor (p : Port) (tag m : Byte) : Statement (.claimMonitor p tag m) :=
  of_some rfl (by simp [frameArgs, argCount]) (by simp [commandOf, takeOne])

theorem writeMonitor (p : Port) (tag m : Byte) (contents : RawMonitor) : Statement (.writeMonitor p tag m contents) :=
  of_some rfl (by simp [frameArgs, argCount, rawMonitorBytes, be16]) (by simp [commandOf, takeMonitor, rawMonitorBytes, be16])

theorem readMonitor (p : Port) (tag m : Byte) : Statement (.readMonitor p tag m) :=
  of_some rfl (by simp [frameArgs, argCount]) (by simp [commandOf, takeOne])

theorem releaseMonitor (p : Port) (tag m : Byte) : Statement (.releaseMonitor p tag m) :=
  of_some rfl (by simp [frameArgs, argCount]) (by simp [commandOf, takeOne])

theorem takeEvents (p : Port) (tag : Byte) : Statement (.takeEvents p tag) :=
  of_some rfl (by simp [frameArgs, argCount]) (by simp [commandOf, takeNone])

theorem propose (p : Port) (tag : Byte) (subject : RawSubject) : Statement (.propose p tag subject) := by
  refine of_some rfl ?_ ?_
  · cases subject <;> simp [frameArgs, proposeArgCount, subjectBytes, rawEntryBytes, rawMonitorBytes, be16]
  · cases subject <;> simp [commandOf, proposeOf, subjectOf, subjectBytes, takeOne, takeTwo, takeEntry, takeMonitor,
      takeTimer, rawEntryBytes, rawMonitorBytes, be16]

theorem vote (p : Port) (tag id choice : Byte) : Statement (.vote p tag id choice) :=
  of_some rfl (by simp [frameArgs, argCount]) (by simp [commandOf, takeTwo])

theorem withdraw (p : Port) (tag id : Byte) : Statement (.withdraw p tag id) :=
  of_some rfl (by simp [frameArgs, argCount]) (by simp [commandOf, takeOne])

theorem readProposal (p : Port) (tag : Byte) : Statement (.readProposal p tag) :=
  of_some rfl (by simp [frameArgs, argCount]) (by simp [commandOf, takeNone])

theorem readCommon (p : Port) (tag : Byte) : Statement (.readCommon p tag) :=
  of_some rfl (by simp [frameArgs, argCount]) (by simp [commandOf, takeNone])

theorem frameError (p : Port) (frame : RawFrame) : Statement (.frameError p frame) := of_none rfl

theorem sessionExpiry (p : Port) : Statement (.sessionExpiry p) := of_none rfl

theorem deviceReset (cause : ResetCause) : Statement (.deviceReset cause) := of_none rfl

theorem resetRelease : Statement (.resetRelease) := of_none rfl

theorem pinInitialLevel (k : PinId) (level : Level) : Statement (.pinInitialLevel k level) := of_none rfl

theorem timerExpiry (k : TimerId) : Statement (.timerExpiry k) := of_none rfl

theorem pinEdge (k : PinId) (level : Level) : Statement (.pinEdge k level) := of_none rfl

theorem endOfSettling : Statement (.endOfSettling) := of_none rfl

theorem endOfSample (inputs : Analog) : Statement (.endOfSample inputs) := of_none rfl

theorem completion (inputs : Analog) : Statement (.completion inputs) := of_none rfl

theorem calibrationEnd (found : Calibration) : Statement (.calibrationEnd found) := of_none rfl

theorem lockReport : Statement (.lockReport) := of_none rfl

theorem qualification (edges : Nat) : Statement (.qualification edges) := of_none rfl

theorem acquisitionDeadlineExpiry : Statement (.acquisitionDeadlineExpiry) := of_none rfl

theorem proposalExpiry : Statement (.proposalExpiry) := of_none rfl

theorem frameStart (p : Port) : Statement (.frameStart p) := of_none rfl

end Sys2Proof.Laws.Frame
end

