-- ==== Sys2Proof/Laws/Records.lean ====
section
/-! SUPPORT. What the records that reads return are made of: counts of owned items, sets of COMMON items, and contents that are
read exactly from the bytes they are written as. -/

namespace Sys2Proof.Machine

/-! ### Counts and sets of items -/

/-- The private entry count counts the entries PRIVATE to the port. -/
theorem State.entryCount_eq (s : State) (p : Port) :
    s.entryCount p = ((List.finRange 32).filter fun e => (s.entry e).state = .ownedBy p).length := by
  rw [State.entryCount, Table.cells_eq, List.countP_map, List.countP_eq_length_filter]
  congr 1

/-- The private monitor count counts the monitors PRIVATE to the port. -/
theorem State.monitorCount_eq (s : State) (p : Port) :
    s.monitorCount p = ((List.finRange 12).filter fun m => (s.monitor m).state = .ownedBy p).length := by
  rw [State.monitorCount, Table.cells_eq, List.countP_map, List.countP_eq_length_filter]
  congr 1

/-- Bit `i` of the number of COMMON items tells whether item `i` is COMMON. -/
theorem testBit_commonBits (l : List ItemState) (i : Nat) : (commonBits l).testBit i = (l[i]? == some .shared) := by
  induction l generalizing i with
  | nil => simp [commonBits]
  | cons st rest ih =>
    rw [commonBits]
    cases i with
    | zero => by_cases h : st = .shared <;> simp [h, Nat.testBit_zero]
    | succ i =>
      have h : ((if st = .shared then 1 else 0) + 2 * commonBits rest) / 2 = commonBits rest := by split <;> omega
      rw [Nat.testBit_succ, h, ih]
      simp

/-! ### Contents and their bytes -/

theorem readContents_rawContents (c : EntryContents) : readContents (rawContents c) = some c := by
  have h1 : ∀ x, readPos (posByte x) = some x := by
    intro x; rcases x with n | _ | _ | _ <;> first | (revert n; decide) | decide
  have h2 : ∀ x, readNeg (negByte x) = some x := by intro x; rcases x with _ | n <;> first | decide | (revert n; decide)
  have h3 : ∀ x, readGain (gainByte x) = some x := by intro x; cases x <;> decide
  have h4 : ∀ x : Fin 16, indexOf 16 (indexByte x) = some x := by decide
  have h5 : ∀ x, readAvg (avgByte x) = some x := by intro x; cases x <;> decide
  have h6 : ∀ x : Fin 64, indexOf 64 (indexByte x) = some x := by decide
  have h7 : ∀ x, readTrigger (triggerByte x) = some x := by
    intro x; rcases x with _ | n | n <;> first | decide | (revert n; decide)
  have h8 : ∀ x : Fin 4, indexOf 4 (indexByte x) = some x := by decide
  have h9 : ∀ x : Option EntryId, readLink (optIndexByte x) = some x := by
    intro x; rcases x with _ | n <;> first | decide | (revert n; decide)
  have h10 : ∀ x, readFlag (flagByte x) = some x := by decide
  simp only [readContents, rawContents, h1, h2, h3, h4, h5, h6, h7, h8, h9, h10]

theorem readMonitorContents_rawMonitorContents (c : MonitorContents) :
    readMonitorContents (rawMonitorContents c) = some c := by
  have h1 : ∀ x : Fin 64, indexOf 64 (indexByte x) = some x := by decide
  have h2 : ∀ x : Fin 1024, readHyst (BitVec.ofNat 16 x.val) = some x := by
    intro x
    have := x.isLt
    have h2 : (BitVec.ofNat 16 x.val).toNat = x.val := by simp; omega
    simp only [readHyst, h2, x.isLt, dif_pos, Fin.eta]
  have h3 : ∀ x, readPersist (byteOf (persistCount x)) = some x := by intro x; cases x <;> decide
  have h4 : ∀ x, readMonitorEdge (monitorEdgeByte x) = some x := by intro x; cases x <;> decide
  have h5 : ∀ x, readAction (actionByte x) (targetByte x) = some x := by
    intro x; rcases x with _ | n <;> first | decide | (revert n; decide)
  simp only [readMonitorContents, rawMonitorContents, h1, h2, h3, h4, h5]

/-- A byte that names an item is the byte of its index. -/
theorem eq_indexByte {n : Nat} {b : Byte} {i : Fin n} (h : indexOf n b = some i) : b = indexByte i := by
  unfold indexOf at h
  split at h
  · cases h
    simp [indexByte, byteOf]
  · cases h

/-- Bytes that are read as contents are the bytes those contents are written as. -/
theorem eq_rawContents_of_readContents {r : RawEntry} {c : EntryContents} (h : readContents r = some c) :
    r = rawContents c := by
  have h1 : ∀ {b x}, readPos b = some x → b = posByte x := by decide
  have h2 : ∀ {b x}, readNeg b = some x → b = negByte x := by decide
  have h3 : ∀ {b x}, readGain b = some x → b = gainByte x := by decide
  have h5 : ∀ {b x}, readAvg b = some x → b = avgByte x := by decide
  have h7 : ∀ {b x}, readTrigger b = some x → b = triggerByte x := by decide
  have h9 : ∀ {b} {x : Option EntryId}, readLink b = some x → b = optIndexByte x := by
    intro b x e
    unfold readLink at e
    split at e
    · cases e
      assumption
    · obtain ⟨k, hk, rfl⟩ := Option.map_eq_some_iff.1 e
      exact eq_indexByte hk
  have h10 : ∀ {b x}, readFlag b = some x → b = flagByte x := by decide
  rcases r with ⟨_, _, _, _, _, _, _, _, _, _⟩
  unfold readContents at h
  split at h
  · rename_i e1 e2 e3 e4 e5 e6 e7 e8 e9 e10
    cases h
    simp only at e1 e2 e3 e4 e5 e6 e7 e8 e9 e10
    rw [h1 e1, h2 e2, h3 e3, eq_indexByte e4, h5 e5, eq_indexByte e6, h7 e7, eq_indexByte e8, h9 e9, h10 e10]
    rfl
  · cases h

theorem eq_rawMonitorContents_of_readMonitorContents {r : RawMonitor} {c : MonitorContents}
    (h : readMonitorContents r = some c) : r = rawMonitorContents c := by
  have h2 : ∀ {w x}, readHyst w = some x → w = BitVec.ofNat 16 x.val := by
    intro w x e
    unfold readHyst at e
    split at e
    · cases e
      simp
    · cases e
  have h3 : ∀ {b x}, readPersist b = some x → b = byteOf (persistCount x) := by decide
  have h4 : ∀ {b x}, readMonitorEdge b = some x → b = monitorEdgeByte x := by decide
  have h5 : ∀ {b b' x}, readAction b b' = some x → b = actionByte x ∧ b' = targetByte x := by
    intro b b' x e
    unfold readAction at e
    split at e
    · split at e
      · cases e
        exact ⟨by assumption, by assumption⟩
      · cases e
    · split at e
      · obtain ⟨k, hk, rfl⟩ := Option.map_eq_some_iff.1 e
        exact ⟨by assumption, eq_indexByte hk⟩
      · cases e
  rcases r with ⟨_, _, _, _, _, _, _, _⟩
  unfold readMonitorContents at h
  split at h
  · rename_i e1 e2 e3 e4 e5
    cases h
    simp only at e1 e2 e3 e4 e5
    rw [eq_indexByte e1, h2 e2, h3 e3, h4 e4, (h5 e5).1, (h5 e5).2]
    rfl
  · cases h

end Sys2Proof.Machine
end

