-- ==== Sys2Proof/Laws/Time.lean ====
section
/-! SUPPORT. What a step does while no command waits: a due event, the passing of time, or an edge of CLKIN; and what the
last two leave of a run of CLKIN. -/

namespace Sys2Proof.Machine

theorem watching_iff {c : Clock} :
    c.watching = true ↔ ∃ r, c.phase = .acquiring r ∧ r.mode = .external := by
  unfold Clock.watching
  rcases c.phase with _ | r | r <;> simp

theorem onClkin_iff {s : State} :
    s.onClkin = true ↔ s.resetHeld = false ∧
      (s.clock.active.mode = .external ∧ s.work ≠ none ∨ ∃ r, s.clock.phase = .acquiring r ∧ r.mode = .external) := by
  simp [State.onClkin, Option.isSome_iff_ne_none, watching_iff]

/-- A count that does not break a run that has not yet lasted 256 µs keeps its law. -/
theorem RunLaw.of_tick {x y : ClkinRun} (h : RunLaw x) (hl : x.length < 20480) (hy : x.tick = some y) : RunLaw y := by
  obtain ⟨h1, h2, h3, h4, h5, h6⟩ := h
  unfold ClkinRun.tick at hy
  split at hy
  · cases hy
    constructor <;> simp only <;> omega
  · cases hy

theorem runLaw_start : RunLaw .start :=
  ⟨by decide, by decide, by decide, by decide, by decide, by decide⟩

/-- A rising edge before the end of the 256 µs leaves a run that keeps its law. -/
theorem runLaw_next {o : Option ClkinRun} (h : ∀ x, o = some x → RunLaw x ∧ x.length < 20480) : RunLaw (.next o) := by
  unfold ClkinRun.next
  split
  · exact runLaw_start
  · rename_i x
    obtain ⟨⟨h1, h2, h3, h4, h5, h6⟩, hl⟩ := h x rfl
    split
    · constructor <;> simp only <;> omega
    · exact runLaw_start

/-- The rising edges of a run of 256 µs are those of 4 to 40 MHz (R91). -/
theorem RunLaw.edges_of_lasted {x : ClkinRun} (h : RunLaw x) (hl : x.length = 20480) :
    1024 ≤ x.edges ∧ x.edges ≤ 10240 := by
  obtain ⟨h1, h2, h3, h4, h5, h6⟩ := h
  omega

/-- Time passes where the part does not look at CLKIN. -/
theorem elapse_of_not_onClkin {s : State} (h : ¬s.onClkin = true) : s.elapse = s.tick := if_neg h

/-- Where the part looks at CLKIN, time passes or CLKIN rises. -/
theorem elapse_of_onClkin {s : State} (h : s.onClkin = true) :
    s.elapse = s.spendFresh.tick ∨ s.elapse = s.spendFresh.clkinEdge := by
  rw [State.elapse, if_pos h]
  split
  · exact .inr rfl
  · exact .inl rfl

/-- The event taken first is one that is due. -/
theorem nextDue_mem {s : State} {c : Instr} (h : s.nextDue = some c) : c ∈ s.dueEvents := by
  unfold State.nextDue at h
  split at h
  · cases h
  · rename_i heq
    cases h
    rw [heq]
    exact List.mem_singleton.2 rfl
  · rename_i i rest _ heq
    cases h
    have hl : Config.dueFirst s.fresh % (i :: rest).length < (i :: rest).length := Nat.mod_lt _ (Nat.succ_pos _)
    rw [heq, List.getD_eq_getElem _ _ hl]
    exact List.getElem_mem hl

theorem nextDue_eq_none {s : State} : s.nextDue = none ↔ s.dueEvents = [] := by
  unfold State.nextDue
  split <;> simp_all

/-- Everything a step can be. -/
theorem step_cases {s t : State} (h : step s = .next t) :
    (∃ c rest, s.pending = c :: rest ∧ exec c { s with pending := rest } = .next t) ∨
    s.pending = [] ∧ ((∃ c ∈ s.dueEvents, exec c s.spendFresh = .next t) ∨ s.dueEvents = [] ∧ s.elapse = t) := by
  unfold step at h
  split at h
  · exact .inl ⟨_, _, by assumption, h⟩
  · refine .inr ⟨by assumption, ?_⟩
    split at h
    · exact .inl ⟨_, nextDue_mem (by assumption), h⟩
    · cases h
      exact .inr ⟨nextDue_eq_none.1 (by assumption), rfl⟩

end Sys2Proof.Machine
end

