-- ==== Sys2Proof/WellFormed.lean ====
section
/-! DEFINITION. The terms that stand for something the part can meet. A link command is well formed whatever its argument
bytes are, since the owning block answers the ones out of range (R187). -/

namespace Sys2Proof

/-- The frame is one the port does not take (R171). -/
def FrameVerdict.isError : FrameVerdict → Bool
  | .error _ _ _ => true
  | .taken _ => false

/-- A command that can come about: a FRAME_ERROR's frame has at most seven clocks of an incomplete byte (R168) and fails a
check of R171; the reference of a sample is above ground (R67); a run of
256 µs has the rising edges of 4 to 40 MHz (R91; notes/assumptions/16.md). -/
def Instr.wf : Instr → Bool
  | .frameError p f => decide (f.extraClocks < 8) && (decodeFrame p f).isError
  | .endOfSample x => decide (0 < x.vref)
  | .completion x => decide (0 < x.vref)
  | .qualification edges => decide (1024 ≤ edges) && decide (edges ≤ 10240)
  | .fetch _ _ => true
  | .attach _ _ _ _ => true
  | .detach _ _ => true
  | .subscribe _ _ _ => true
  | .readStatus _ _ => true
  | .restate _ _ => true
  | .claimEntry _ _ _ => true
  | .writeEntry _ _ _ _ => true
  | .readEntry _ _ _ => true
  | .releaseEntry _ _ _ => true
  | .request _ _ _ => true
  | .cancel _ _ _ => true
  | .readSlots _ _ _ _ => true
  | .continueSlots _ _ => true
  | .claimMonitor _ _ _ => true
  | .writeMonitor _ _ _ _ => true
  | .readMonitor _ _ _ => true
  | .releaseMonitor _ _ _ => true
  | .takeEvents _ _ => true
  | .propose _ _ _ => true
  | .vote _ _ _ _ => true
  | .withdraw _ _ _ => true
  | .readProposal _ _ => true
  | .readCommon _ _ => true
  | .sessionExpiry _ => true
  | .deviceReset _ => true
  | .resetRelease => true
  | .pinInitialLevel _ _ => true
  | .timerExpiry _ => true
  | .pinEdge _ _ => true
  | .endOfSettling => true
  | .calibrationEnd _ => true
  | .lockReport => true
  | .acquisitionDeadlineExpiry => true
  | .proposalExpiry => true
  | .frameStart _ => true

end Sys2Proof
end

