-- ==== Sys2Proof/Tests/Slice0.lean ====
section
/-! SUPPORT. Tests: the terms WellFormed refuses, CRC values and frames by hand, one or two small steps for each command,
and for each statement with hypotheses a state and operands that meet them. -/

set_option maxRecDepth 100000

namespace Sys2Proof.Tests

open Sys2Proof.Machine

/-! ### Small states -/

/-- A port in a session without timeout or subscriptions. -/
def online : PortState := { PortState.reset .power with attached := true, number := 1 }

/-- Port A attached, the converter calibrating. -/
def one : State := State.reset.setPort .a online

/-- Ports A and B attached. -/
def two : State := one.setPort .b online

/-- Port A attached, with a session timeout of 10 ms that ends now. -/
def timed : State := State.reset.setPort .a { online with timeout := 1, deadline := some 0 }

/-- A held device reset. -/
def held : State := { one with resetHeld := true }

/-- Entry 5 PRIVATE to Port A and entry 6 COMMON, with Ports A and B attached. -/
def planned : State :=
  (two.setEntry 5 { Entry.free 1 with state := .ownedBy .a }).setEntry 6 { Entry.free 1 with state := .shared }

/-- All entries COMMON, and tickets of origin `o` for the first `n` of them. -/
def crowd (n : Nat) (o : Origin) : State :=
  { two with
    entries := .fill 32 { Entry.free 1 with state := .shared }
    queue := ((List.finRange 32).take n).map fun e => ⟨e, o, 0, BitVec.ofNat 16 e.val, 0⟩ }

/-- Monitor 3 PRIVATE to Port A. -/
def watching : State := two.setMonitor 3 { Monitor.free 1 with state := .ownedBy .a }

/-- An open proposal of Port A with Port B as its voter. -/
def offer (subject : Subject) : Proposal :=
  { id := 7, author := .a, subject := subject, deadline := 0, required := ⟨false, true, false⟩,
    accepted := .fill false }

/-- The state with that proposal open. -/
def voting (subject : Subject) : State := { two with proposal := some (offer subject) }

/-- A copy of entry 6 of `planned`, of one sample. -/
def copy6 : Copy := copyOf 6 (planned.entry 6) .common 1

/-- The converter at the end of the last sample of that copy. -/
def sampling : State := { planned with converter := .sampling copy6 0 0 false, work := some 0, calibration := some ⟨0, 0⟩ }

/-- The IDLE converter. -/
def idle : State := { planned with converter := .idle, work := none, calibration := some ⟨0, 0⟩ }

/-- The converter HELD while MULTIPLIED divided by 2 is acquired. -/
def locking : State :=
  { idle with
    converter := .held
    clock := ⟨⟨.internal, .d1⟩, .acquiring ⟨.multiplied, .d2⟩, some 0, none, .starting, none⟩ }

/-- The converter HELD while EXTERNAL divided by `d` is acquired, with the run `x` of CLKIN. -/
def acquiring (d : Divider) (x : Option ClkinRun) : State :=
  { idle with
    converter := .held
    clock := ⟨⟨.internal, .d1⟩, .acquiring ⟨.external, d⟩, some 1744, none, .stopped, x⟩ }

/-- That state when a run with `edges` rising edges has lasted 256 µs, the last of them 62.5 ns ago. -/
def qualifying (d : Divider) (edges : Nat) : State := acquiring d (some ⟨edges, 20480, 5⟩)

/-- The converter at the end of a calibration, with draining noted. -/
def draining : State :=
  { one with work := some 0, clock := ⟨⟨.internal, .d1⟩, .draining ⟨.internal, .d2⟩, none, none, .stopped, none⟩ }

/-- EXTERNAL divided by 4 is active, and `n` edges of CLKIN are left of the settling of that copy. -/
def external (n : Nat) : State :=
  { idle with
    converter := .settling copy6, work := some n, clock := ⟨⟨.external, .d4⟩, .none, none, some 4096, .stopped, none⟩ }

/-- Inputs with a reference. -/
def volts : Analog := ⟨⟨List.replicate 16 0 |>.toArray, rfl⟩, 0, 0, 0, 1⟩

/-- The state an outcome answers. -/
def Outcome.state (o : Host.Outcome State Fault Refusal) : State :=
  match o with
  | .next t => t
  | .fault _ => State.reset
  | .refused _ => State.reset

/-- The state after a command. -/
def run (c : Instr) (s : State) : State := Outcome.state (exec c s)

/-! ### WellFormed refuses -/

theorem test_wf_frame_error_extra_clocks : (Instr.frameError .a ⟨[0x00], 8⟩).wf = false := by decide
theorem test_wf_frame_error_of_a_good_frame : (Instr.frameError .a ⟨[0x00, 0x00, 0xD7], 0⟩).wf = false := by decide
theorem test_wf_frame_error : (Instr.frameError .a ⟨[0x00], 7⟩).wf = true := by decide
theorem test_wf_sample_without_reference : (Instr.endOfSample { volts with vref := 0 }).wf = false := by decide
theorem test_wf_completion_without_reference : (Instr.completion { volts with vref := 0 }).wf = false := by decide
theorem test_wf_qualification_too_few : (Instr.qualification 1023).wf = false := by decide
theorem test_wf_qualification_too_many : (Instr.qualification 10241).wf = false := by decide
theorem test_wf_qualification : (Instr.qualification 1024).wf = true ∧ (Instr.qualification 10240).wf = true := by decide

/-! ### CRC, frames, table words -/

theorem test_crc_of_one_byte : crc8 [0x00] = 0xF3 := by decide
theorem test_crc_of_fetch : crc8 [0x00, 0x00] = 0xD7 := by decide
theorem test_no_table_word : decodeTableWord 8 0 = none ∧ State.reset.withFetchWord 8 0 = State.reset := by decide
theorem test_frame_of_attach : decodeFrame .b ⟨[0x01, 0x11, 0x0A, 0x11, 0xFB], 0⟩ = .taken (.attach .b 0x11 10 0x11) := by
  decide
theorem test_frame_of_request : decodeFrame .a ⟨[0x18, 0x01, 0x05, crc8 [0x18, 0x01, 0x05]], 0⟩ = .taken (.request .a 1 5) := by
  decide
theorem test_frame_of_propose :
    decodeFrame .a ⟨[0x38, 0x01, 0x09, 0x28, crc8 [0x38, 0x01, 0x09, 0x28]], 0⟩ = .taken (.propose .a 1 (.windowSet 40)) := by
  decide

/-! ### Port Link -/

theorem test_fetch : (run (.fetch .a 1) one).port .a = { online with gap := 0 } := by decide
theorem test_attach : ((run (.attach .c 1 2 0x1F) one).port .c).deadline = some 20000 ∧
    ((run (.attach .c 1 2 0x1F) one).port .c).slot = ⟨1, 0x01, .ok, [1]⟩ := by decide
theorem test_attach_again : ((run (.attach .a 1 2 0x20) one).port .a).slot = ⟨1, 0x01, .already, [1]⟩ := by decide
theorem test_detach : ((run (.detach .a 1) planned).port .a).attached = false ∧
    ((run (.detach .a 1) planned).entry 5) = .free 2 ∧ ((run (.detach .a 1) planned).entry 6) = planned.entry 6 := by
  decide
theorem test_subscribe : ((run (.subscribe .a 1 0x05) one).port .a).subs = ⟨true, false, true, false, false⟩ := by decide
theorem test_readStatus : ((run (.readStatus .b 9) one).port .b).slot = ⟨9, 0x04, .ok,
    [0, 0, 1, 0, 0, 1, 1, 0, 0, 0, 0, 0, 0, 1, 0, 0, 0, 0, 0, 0, 0, 0, 0]⟩ := by decide
theorem test_restate : ((run (.restate .a 1) timed).port .a).slot = ⟨1, 0x05, .ok, [1, 1, 0, 0, 0, 0, 0]⟩ ∧
    ((run (.restate .a 1) timed).port .a).deadline = some 10000 := by decide
theorem test_takeEvents :
    ((run (.takeEvents .a 1) (one.setPort .a { online with events := [⟨.dropped 5, 1, 258⟩] })).port .a).slot =
      ⟨1, 0x30, .ok, [1, 0, 0x41, 5, 1, 0, 0, 0, 0, 1, 2, 0, 0]⟩ := by decide
theorem test_frameError : ((run (.frameError .a ⟨[0x77, 0x01, 0x00], 0⟩) one).port .a).slot =
    ⟨0x01, 0x77, .frameError, [3]⟩ := by decide
theorem test_frameStart : (run (.frameStart .b) one).sdo .b 2 = some 0x12 ∧ one.sdo .b 2 = none := by decide
theorem test_sessionExpiry : ((run (.sessionExpiry .a) timed).port .a).slot = ⟨0, 0, .expired, [1]⟩ ∧
    ((run (.sessionExpiry .a) timed).port .a).attached = false := by decide
theorem test_sessionExpiry_early : run (.sessionExpiry .a) { timed with timebase := 5 } = { timed with timebase := 5 } := by
  decide

/-! ### Plan Table and limit monitors -/

theorem test_claimEntry : (run (.claimEntry .a 1 7) two).entry 7 = { Entry.free 1 with state := .ownedBy .a } := by decide
theorem test_writeEntry :
    ((run (.writeEntry .a 1 5 ⟨3, 4, 2, 15, 3, 63, 0x23, 3, 0xFF, 1⟩) planned).entry 5).contents =
      ⟨.ain 3, .ain 4, .x16, 15, .n8, 63, .pin 3, 3, none, true⟩ := by decide
theorem test_writeEntry_gain_with_ground :
    ((run (.writeEntry .a 1 5 ⟨3, 16, 1, 0, 0, 0, 0, 0, 0xFF, 0⟩) planned).port .a).slot.status = .invalid := by decide
theorem test_readEntry : ((run (.readEntry .a 1 6) planned).port .a).slot.data =
    [18, 16, 0, 0, 0, 0, 0, 0, 0xFF, 0, 2, 0xFF, 1, 0, 0, 0] := by decide
theorem test_releaseEntry : (run (.releaseEntry .a 1 5) planned).entry 5 = .free 2 := by decide
theorem test_claimMonitor : (run (.claimMonitor .a 1 11) two).monitor 11 = { Monitor.free 1 with state := .ownedBy .a } := by
  decide
theorem test_writeMonitor :
    ((run (.writeMonitor .a 1 3 ⟨9, 0xFF9C, 0x0064, 5, 2, 1, 0, 0xFF⟩) watching).monitor 3).contents =
      ⟨9, 0xFF9C, 0x0064, 5, .p2, .enterBelow, .notify⟩ := by decide
theorem test_readMonitor : ((run (.readMonitor .a 1 3) watching).port .a).slot.data =
    [0, 0x80, 0, 0x7F, 0xFF, 0, 0, 1, 3, 0, 0xFF, 1, 0, 1, 0, 0xFF, 0, 0, 0] := by decide
theorem test_releaseMonitor : (run (.releaseMonitor .a 1 3) watching).monitor 3 = .free 2 := by decide
/-- The hysteresis holds a value of 95 ABOVE a high limit of 100 with hysteresis 5, and lets 94 go. -/
theorem test_hysteresis :
    rawZone { MonitorContents.default with low := 0, high := 100, hyst := 5 } (some .above) 95 = .above ∧
      rawZone { MonitorContents.default with low := 0, high := 100, hyst := 5 } (some .above) 94 = .inside := by decide

/-! ### Triggers and the Dispatch Queue -/

theorem test_request : ((run (.request .a 1 6) planned).port .a).slot = ⟨1, 0x18, .ok, [0, 0, 1]⟩ ∧
    (run (.request .a 1 6) planned).queue = [⟨6, .port .a, 0, 0, 0⟩] := by decide
theorem test_request_of_another : ((run (.request .b 1 5) planned).port .b).slot.status = .denied := by decide
theorem test_cancel : ((run (.cancel .a 1 3) (crowd 4 (.port .a))).port .a).slot = ⟨1, 0x19, .ok, [0, 3]⟩ ∧
    (run (.cancel .a 1 3) (crowd 4 (.port .a))).queue.length = 3 := by decide
theorem test_timerExpiry :
    (run (.timerExpiry 2) (((planned.setTimer 2 ⟨5, .running 0⟩).setEntry 6
      { planned.entry 6 with contents := { EntryContents.default with trigger := .timer 2 } }))).queue =
        [⟨6, .timer 2, 0, 0, 0⟩] := by decide
/-- A new level 250 ns after the one before, and one a count too soon. -/
theorem test_pinEdge : (run (.pinEdge 1 .high) (two.setPin 1 ⟨.rising, some .low, 20⟩)).pin 1 = ⟨.rising, some .high, 0⟩ ∧
    (run (.pinEdge 1 .high) (two.setPin 1 ⟨.rising, some .low, 19⟩)).pin 1 = ⟨.rising, some .low, 19⟩ := by decide
theorem test_pinInitialLevel : (run (.pinInitialLevel 1 .high) (two.ticks 20)).pin 1 = ⟨.off, some .high, 0⟩ ∧
    (run (.pinInitialLevel 1 .high) (two.ticks 19)).pin 1 = ⟨.off, none, 19⟩ := by decide
/-- A class 0 ticket that has waited 3 ms under an aging period of 1 ms overtakes a class 2 ticket that has waited none. -/
theorem test_aging : choose 1 3000 [⟨0, .port .a, 2, 0, 3000⟩, ⟨1, .port .a, 0, 1, 0⟩] = some ⟨1, .port .a, 0, 1, 0⟩ := by
  decide

/-! ### Converter, clock, Result Store -/

theorem test_endOfSettling : (run .endOfSettling { idle with converter := .settling copy6, work := some 0 }).converter =
    .sampling copy6 0 0 false ∧
    (run .endOfSettling { idle with converter := .settling copy6, work := some 1 }).converter = .settling copy6 := by decide
/-- On EXTERNAL time does not count the settling, an edge of CLKIN does, and the first sample is 18 periods of 4 edges. -/
theorem test_external : ((external 1).ticks 10).work = some 1 ∧ (external 1).clkinEdge.work = some 0 ∧
    run .endOfSettling (external 1) = external 1 ∧ (run .endOfSettling (external 0)).work = some 72 := by decide
theorem test_endOfSample_of_one : run (.endOfSample volts) sampling = sampling := by decide
theorem test_completion : ((run (.completion volts) sampling).slotAt 0).source = 6 ∧
    ((run (.completion volts) sampling).slotAt 0).sequence = 1 ∧
    (run (.completion volts) sampling).converter = .idle := by decide
theorem test_value_rounds_down : resultValue 4003 .n4 = 1000 ∧ resultValue (-7) .n2 = BitVec.ofInt 16 (-4) := by decide
theorem test_calibrationEnd :
    (run (.calibrationEnd ⟨3, 4⟩) { one with work := some 0 }).calibration = some ⟨3, 4⟩ ∧
      (run (.calibrationEnd ⟨3, 4⟩) { one with work := some 0 }).converter = .idle := by decide
theorem test_lockReport : (run .lockReport locking).clock = ⟨⟨.multiplied, .d2⟩, .none, none, none, .locked, none⟩ ∧
    (run .lockReport locking).work = some 20480 := by decide
theorem test_qualification : (run (.qualification 4096) (qualifying .d1 4096)).clock.measured = some 4096 := by decide
theorem test_qualification_too_fast : (run (.qualification 4097) (qualifying .d1 4097)).converter = .idle := by decide
/-- With no run, with one of another number of edges, and with one that a count is missing from, QUALIFICATION changes nothing. -/
theorem test_qualification_without_run : run (.qualification 4096) (acquiring .d1 none) = acquiring .d1 none ∧
    run (.qualification 4095) (qualifying .d1 4096) = qualifying .d1 4096 ∧
    run (.qualification 4096) (acquiring .d1 (some ⟨4096, 20479, 5⟩)) = acquiring .d1 (some ⟨4096, 20479, 5⟩) := by decide
/-- A period of 25 ns goes on with a run, one of 12.5 ns begins it anew, and more than 250 ns forgets it. -/
theorem test_clkin_run : ((acquiring .d1 none).clkinEdge.ticks 2).clkinEdge.clock.run = some ⟨2, 2, 0⟩ ∧
    ((acquiring .d1 (some ⟨7, 90, 2⟩)).clkinEdge.ticks 1).clkinEdge.clock.run = some ⟨1, 0, 0⟩ ∧
    ((acquiring .d1 none).clkinEdge.ticks 20).clock.run = some ⟨1, 20, 20⟩ ∧
    ((acquiring .d1 none).clkinEdge.ticks 21).clock.run = none := by decide
/-- CLKIN is not watched in any other phase. -/
theorem test_clkin_unwatched : locking.clkinEdge = locking ∧ (external 1).clkinEdge.clock.run = none ∧
    draining.clkinEdge = draining := by decide
theorem test_acquisitionDeadlineExpiry : (run .acquisitionDeadlineExpiry locking).clock = .reset := by decide
theorem test_readSlots : ((run (.readSlots .a 1 60 4) one).port .a).slot.data.length = 46 ∧
    ((run (.readSlots .a 1 60 5) one).port .a).slot.status = .invalid := by decide
theorem test_continueSlots : ((run (.continueSlots .a 2) (run (.readSlots .a 1 0 5) one)).port .a).slot.data.take 2 = [4, 0] ∧
    ((run (.continueSlots .a 1) one).port .a).slot.status = .noData := by decide

/-! ### Proposals, reset -/

theorem test_propose_alone : (run (.propose .a 1 (.agingSet 9)) one).aging = 9 ∧
    ((run (.propose .a 1 (.agingSet 9)) one).port .a).slot.data = [0, 1, 0, 0, 0, 0x9C, 0x40] := by decide
theorem test_propose_opens : ((run (.propose .a 1 (.agingSet 9)) two).proposal.map (·.required)) = some ⟨false, true, false⟩ := by
  decide
theorem test_vote_accept : (run (.vote .b 1 7 1) (voting (.windowSet 9))).window = 9 ∧
    ((run (.vote .b 1 7 1) (voting (.windowSet 9))).port .b).slot.data = [7, 1, 0] := by decide
theorem test_vote_refuse : (run (.vote .b 1 7 2) (voting (.windowSet 9))).window = 40 ∧
    (run (.vote .b 1 7 2) (voting (.windowSet 9))).proposal = none := by decide
theorem test_withdraw : (run (.withdraw .a 1 7) (voting (.windowSet 9))).proposal = none := by decide
theorem test_readProposal : ((run (.readProposal .b 1) (voting (.windowSet 9))).port .b).slot.data =
    [7, 0, 9, 9, 0, 0, 0, 0, 0, 0, 0, 0, 2, 0] := by decide
theorem test_readCommon : ((run (.readCommon .a 1) planned).port .a).slot.data.drop 34 = [0, 40, 0, 0, 0, 0x40, 0, 0] := by
  decide
theorem test_proposalExpiry : ((run .proposalExpiry (voting (.windowSet 9))).port .b).events =
    [⟨.proposal 7 .expired .a, 1, 0⟩] := by decide
theorem test_deviceReset : (run (.deviceReset .pin) planned).resetCause = .pin ∧
    (run (.deviceReset .pin) planned).entry 5 = .free 0 := by decide
theorem test_resetRelease : (run .resetRelease (run (.deviceReset .pin) planned)) = State.afterReset .pin := by decide

/-! ### Witnesses -/

theorem serves_one : Serves one .a := ⟨⟨rfl, by decide⟩, rfl⟩
theorem serves_two : Serves two .a := ⟨⟨rfl, by decide⟩, rfl⟩
theorem serves_planned : Serves planned .a := ⟨⟨rfl, by decide⟩, rfl⟩

/-- A state without links, targets and proposals keeps the law of links. -/
theorem linkLaw_of_plain {s : State} (he : ∀ e, (s.entry e).contents.link = none)
    (hm : ∀ m, (s.monitor m).contents.action = .notify) (hp : s.proposal = none) : LinkLaw s := by
  refine ⟨?_, ?_, ?_, ?_, ?_⟩
  · intro e sc l _ h
    rw [he e] at h
    cases h
  · intro e sc _
    simp [State.chainFrom, he e]
  · intro m sc e _ h
    rw [hm m] at h
    cases h
  · intro pr e c h
    rw [hp] at h
    cases h
  · intro pr m c h
    rw [hp] at h
    cases h

theorem linkLaw_planned : LinkLaw planned := linkLaw_of_plain (by decide) (by decide) rfl

/-- A state without tickets keeps the law of the queue. -/
theorem queueLaw_of_empty {s : State} (h : s.queue = []) : QueueLaw s := by
  refine ⟨?_, ?_, ?_, ?_, ?_, fun _ => h⟩
  · rw [h]; decide
  · rw [h]; exact List.nodup_nil
  · intro t ht; rw [h] at ht; cases ht
  · intro t ht; rw [h] at ht; cases ht
  · intro p; rw [State.waiting, h]; exact Nat.zero_le 6

theorem queueLaw_crowd : QueueLaw (crowd 6 (.port .a)) ∧ QueueLaw (crowd 24 (.timer 0)) := by
  refine ⟨⟨by decide, by decide, by decide, by decide, ?_, by decide⟩, ⟨by decide, by decide, by decide, by decide, ?_, by decide⟩⟩
  · intro p; cases p <;> decide
  · intro p; cases p <;> decide

theorem test_witness_StepTakesFrontCommand : ({ one with pending := [.fetch .a 1] } : State).pending = .fetch .a 1 :: [] := rfl

theorem test_witness_EmptyQueueLetsTimeAct : one.pending = [] ∧ one.dueEvents = [] ∧
    ({ timed with work := none } : State).pending = [] ∧
    ({ timed with work := none } : State).dueEvents ≠ [] ∧ held.resetHeld = true ∧ timed.resetHeld = false ∧
    one.clock.active.mode ≠ .external ∧ (external 1).pending = [] ∧ (external 1).dueEvents = [] ∧
    (external 1).resetHeld = false ∧ (external 1).clock.active.mode = .external ∧ (external 1).work = some 1 := by decide

/-- EXTERNAL is being acquired, with no run, a run whose last period can be too short, and one whose last period cannot. -/
theorem test_witness_EmptyQueueLetsTimeAct_watching :
    ∀ x ∈ [none, some ⟨2, 3, 1⟩, some (⟨2, 4, 2⟩ : ClkinRun)], (acquiring .d1 x).pending = [] ∧
      (acquiring .d1 x).dueEvents = [] ∧ (acquiring .d1 x).resetHeld = false ∧
      (acquiring .d1 x).clock.phase = .acquiring ⟨.external, .d1⟩ ∧ (acquiring .d1 x).clock.run = x := by decide

/-- Each kind of due event in a state of its own; the converter's have free inputs, so that they are found by their side of
the statement. -/
theorem test_witness_EmptyQueueLetsTimeAct_events :
    (Instr.timerExpiry 2 ∈ (two.setTimer 2 ⟨1, .running 0⟩).dueEvents) ∧ Instr.sessionExpiry .a ∈ timed.dueEvents ∧
    Instr.proposalExpiry ∈ (voting (.agingSet 1)).dueEvents ∧ Instr.acquisitionDeadlineExpiry ∈ locking.dueEvents ∧
    Instr.qualification 4096 ∈ (qualifying .d1 4096).dueEvents ∧
    Instr.endOfSettling ∈ ({ idle with converter := .settling copy6, work := some 0 } : State).dueEvents ∧
    sampling.work = some 0 ∧ sampling.converter = .sampling copy6 0 0 false ∧ avgCount copy6.avg ≤ 0 + 1 ∧
    0 + 1 < avgCount .n2 ∧ draining.work = some 0 ∧ draining.converter = .calibrating := by decide

theorem test_witness_TimebaseRuns : held.resetHeld = true ∧ one.resetHeld = false := by decide

theorem test_witness_DeviceResetAndRelease : held.resetHeld = true ∧ one.resetHeld = false := by decide

/-- A frame of 64 bytes, the longest. -/
theorem test_witness_FrameRoundTrip : frameParts (.fetch .a 1) = some (.a, 0x00, 1, []) ∧ ([] : List Byte).length + 3 + 61 ≤ 64 := by
  decide

theorem test_witness_TakenFrameSpellsItsCommand : decodeFrame .a ⟨[0x00, 0x00, 0xD7, 0xFF], 0⟩ = .taken (.fetch .a 0) := by decide

theorem test_witness_FrameErrors : Judged one .a ∧
    decodeFrame .a ⟨[0x00, 0x00, 0xD6], 0⟩ = .error .crc 0 0 ∧ decodeFrame .a ⟨[0x00, 0x00, 0xD7], 0⟩ = .taken (.fetch .a 0) :=
  ⟨⟨rfl, by decide⟩, by decide, by decide⟩

/-- Each clause of FrameErrors at a boundary: one clock too many, 65 bytes, one byte, a code and subjects out of the table,
a frame one byte short, filler that is not 0xFF, a wrong CRC. -/
theorem test_witness_FrameErrors_clauses : (1 : Nat) ≠ 0 ∧ 64 < (List.replicate 65 (0 : Byte)).length ∧ ([0] : List Byte).length < 2 ∧
    (0x06 : Byte) ∉ [0x00, 0x01, 0x02, 0x03, 0x04, 0x05, 0x10, 0x11, 0x12, 0x13, 0x18, 0x19, 0x20, 0x21, 0x28, 0x29, 0x2A, 0x2B,
      0x30, 0x38, 0x39, 0x3A, 0x3B, 0x3C] ∧
    9 < (0x0A : Byte).toNat ∧ frameArgs 0x00 [] = .ok 0 ∧ ([0x00, 0x01] : List Byte).length < 0 + 3 ∧
    (∃ b ∈ ([0x00, 0x00, 0xD7, 0xFE] : List Byte).drop (0 + 3), b ≠ 0xFF) ∧
    (∀ b ∈ ([0x00, 0x00, 0xD6] : List Byte).drop (0 + 3), b = 0xFF) ∧
    ([0x00, 0x00, 0xD6] : List Byte).getD (0 + 2) 0 ≠ crc8 (([0x00, 0x00, 0xD6] : List Byte).take (0 + 2)) := by decide

theorem test_witness_FrameStartCommand : (one.port .a).frame = .idle ∧ (held.port .a).frame = .idle ∧
    ((one.setPort .a { online with gap := 159 }).port .a).frame = .idle := by decide

theorem test_witness_RecordOnTheWire : (one.port .a).frame = .idle ∧
    ((one.setPort .a { online with frame := .abandoned }).port .a).frame = .abandoned ∧
    ((one.setPort .a { online with frame := .shifting ⟨0, 0, .ok, []⟩ }).port .a).frame = .shifting ⟨0, 0, .ok, []⟩ := by decide

theorem test_witness_UnjudgedAndDetachedFrames : portOf (.fetch .a 1) = some .a ∧ (frameParts (.fetch .a 1)).isSome = true ∧
    ¬Judged held .a ∧ frameParts (.readCommon .b 1) = some (.b, 0x3C, 1, []) ∧ Judged one .b ∧ (one.port .b).attached = false :=
  ⟨rfl, rfl, fun h => Bool.noConfusion h.1, rfl, ⟨rfl, by decide⟩, rfl⟩

theorem test_witness_OtherPortsKeepTheirSession : exec (.fetch .a 1) one = .next (one.fetch .a) ∧
    isDeviceReset (.fetch .a 1) = false ∧ portOf (.fetch .a 1) ≠ some .b := ⟨rfl, rfl, by decide⟩

theorem test_witness_FetchCommand : Judged one .a ∧ Judged one .b := ⟨⟨rfl, by decide⟩, ⟨rfl, by decide⟩⟩

theorem test_witness_AttachCommand : Judged one .b ∧ (one.port .b).attached = false ∧ (31 : Byte).toNat < 32 ∧ 32 ≤ (32 : Byte).toNat ∧
    Judged one .a ∧ (one.port .a).attached = true := ⟨⟨rfl, by decide⟩, rfl, by decide, by decide, ⟨rfl, by decide⟩, rfl⟩

/-- A queue with a COMPLETION record to fold into, one with an OVERFLOW record, and queues of 14 and of 15 records. -/
theorem test_witness_NoticesReachTheQueues :
    (∃ r ∈ ([⟨.completion 5 0 1 2, 1, 0⟩] : List EventRecord), r.isCompletionOf 5 = true) ∧
    (∃ r ∈ ([⟨.overflow .dropped, 1, 0⟩] : List EventRecord), r.isOverflow = true) ∧
    (∀ r ∈ List.replicate 14 (⟨.dropped 5, 1, 0⟩ : EventRecord), r.isOverflow = false) ∧
    (List.replicate 14 (⟨.dropped 5, 1, 0⟩ : EventRecord)).length < 15 ∧
    (∀ r ∈ List.replicate 15 (⟨.dropped 5, 1, 0⟩ : EventRecord), r.isOverflow = false) ∧
    15 ≤ (List.replicate 15 (⟨.dropped 5, 1, 0⟩ : EventRecord)).length := by decide

theorem test_witness_DetachCommand : Serves planned .a ∧ LinkLaw planned := ⟨serves_planned, linkLaw_planned⟩

theorem test_witness_SessionExpiryCommand : timed.resetHeld = false ∧ (timed.port .a).attached = true ∧
    (timed.port .a).deadline = some timed.timebase ∧ LinkLaw timed :=
  ⟨rfl, rfl, rfl, linkLaw_of_plain (by decide) (by decide) rfl⟩

/-- The parts of ProposalCloses: no proposal; the author leaves; a port that is no voter; the only voter; and one of two
voters. -/
theorem test_witness_ProposalCloses : two.proposal = none ∧ (voting (.agingSet 1)).proposal = some (offer (.agingSet 1)) ∧
    (offer (.agingSet 1)).author = .a ∧ (offer (.agingSet 1)).author ≠ .c ∧ (offer (.agingSet 1)).required.get .c = false ∧
    (offer (.agingSet 1)).author ≠ .b ∧ (offer (.agingSet 1)).required.get .b = true ∧
    (∀ q, ((offer (.agingSet 1)).without .b).required.get q = true → ((offer (.agingSet 1)).without .b).accepted.get q = true) ∧
    (∃ q, (({ offer (.agingSet 1) with required := ⟨false, true, true⟩ } : Proposal).without .b).required.get q = true ∧
      (({ offer (.agingSet 1) with required := ⟨false, true, true⟩ } : Proposal).without .b).accepted.get q = false) :=
  ⟨rfl, rfl, rfl, by decide, rfl, by decide, rfl, fun q h => (by cases q <;> cases h), ⟨.c, rfl, rfl⟩⟩

theorem test_witness_ProposalCloses_items :
    ((two.setEntry 4 { Entry.free 0 with state := .reserved }).entry 4).state = .reserved ∧
    ((two.setMonitor 4 { Monitor.free 0 with state := .reserved }).monitor 4).state = .reserved ∧
    (planned.entry 6).state ≠ .reserved := by decide

theorem test_witness_SubscribeAndTakeEventsCommands : Serves one .a ∧ (31 : Byte).toNat < 32 ∧ 32 ≤ (32 : Byte).toNat :=
  ⟨serves_one, by decide, by decide⟩

theorem portLaw_online (timeout : Byte) (deadline : Option Time) (h : deadline = none ↔ timeout = 0) :
    PortLaw { online with timeout := timeout, deadline := deadline } :=
  { detached := fun hd => Bool.noConfusion hd
    deadline := fun _ => h
    events := ⟨Nat.zero_le 15, fun r hr => by (simp [online, PortState.reset] at hr),
      fun _ => Nat.zero_le 1⟩
    snapshot := ⟨Nat.zero_le 12, trivial⟩
    slot := (by decide : (PortState.reset .power).slot.data.length ≤ 48)
    gap := (by decide : (PortState.reset .power).gap ≤ 160) }

theorem test_witness_ReadingCommands : Serves one .a ∧ Judged one .b ∧ one.proposal = none ∧
    Serves (voting (.agingSet 1)) .b ∧ (voting (.agingSet 1)).proposal = some (offer (.agingSet 1)) ∧
    32 ≤ (32 : Byte).toNat ∧ 12 ≤ (12 : Byte).toNat :=
  ⟨serves_one, ⟨rfl, by decide⟩, rfl, ⟨⟨rfl, by decide⟩, rfl⟩, rfl, by decide, by decide⟩

/-- RESTATE of a session without timeout and of one with. -/
theorem test_witness_ReadingCommands_restate : Serves one .a ∧ PortLaw (one.port .a) ∧ (one.port .a).timeout = 0 ∧
    Serves timed .a ∧ PortLaw (timed.port .a) ∧ (timed.port .a).timeout ≠ 0 :=
  ⟨serves_one, portLaw_online 0 none (by decide), rfl, ⟨⟨rfl, by decide⟩, rfl⟩, portLaw_online 1 (some 0) (by decide),
    by decide⟩

theorem test_witness_ClaimEntryCommand : Serves planned .a ∧ 32 ≤ (32 : Byte).toNat ∧ (planned.entry 5).state ≠ .free ∧
    (planned.entry 31).state = .free ∧ planned.entryCount .a < 16 := ⟨serves_planned, by decide, by decide, by decide, by decide⟩

/-- Port A owns 16 entries. -/
def full : State := { two with entries := ⟨List.replicate 16 { Entry.free 1 with state := .ownedBy .a } ++ List.replicate 16 (.free 0), rfl⟩ }

theorem test_witness_ClaimEntryCommand_quota : Serves full .a ∧ (full.entry 16).state = .free ∧ 16 ≤ full.entryCount .a :=
  ⟨⟨⟨rfl, by decide⟩, rfl⟩, by decide, by decide⟩

/-- Entry contents of the shape that the checks read. -/
def rawIn (pos neg gain link : Byte) : RawEntry := ⟨pos, neg, gain, 0, 0, 0, 0, 0, link, 0⟩

/-- Bytes that name nothing, inputs that do not go together, no link, a link that fails and a link that passes. -/
theorem test_witness_ContentChecks : readContents (rawIn 19 16 0 0xFF) = none ∧
    (readContents (rawIn 1 1 0 0xFF)).map (fun c => (c.neg, c.pos)) = some (.ain 1, .ain 1) ∧
    (readContents (rawIn 1 16 1 0xFF)).map (fun c => (c.gain, c.neg)) = some (.x4, .ground) ∧
    (readContents (rawIn 1 16 0 0xFF)).map (·.link) = some none ∧ planned.backwardCount .common 32 6 ≤ 7 ∧
    (readContents (rawIn 1 16 0 5)).map (·.link) = some (some 5) ∧ (planned.entry 5).state ≠ .scoped .common ∧
    (crowd 0 (.port .a)).chainFrom 32 (some 5) = [5] ∧ ((crowd 0 (.port .a)).entry 5).state = .scoped .common ∧
    LinkLaw (crowd 0 (.port .a)) ∧ (5 : EntryId) ≠ 6 ∧ 1 + 1 + (crowd 0 (.port .a)).backwardCount .common 2 6 ≤ 8 :=
  ⟨by decide, by decide, by decide, by decide, by decide, by decide, by decide, by decide, by decide,
    linkLaw_of_plain (by decide) (by decide) rfl, by decide, by decide⟩

/-- Entry 6 linked to entry 5, both COMMON: the walk from 6 and the path that arrives at 5. -/
theorem test_witness_ContentChecks_chain :
    let s := (crowd 0 (.port .a)).setEntry 6 { Entry.free 1 with
      state := .shared, contents := { EntryContents.default with link := some 5 } }
    s.chainFrom 32 (some 6) = [6, 5] ∧ (s.entry 6).contents.link = some 5 ∧ (s.entry 6).state = .scoped .common ∧
      (s.entry 5).contents.link = none ∧ s.backwardCount .common 2 5 = 1 := by decide

theorem test_witness_WriteEntryCommand : Serves planned .a ∧ 32 ≤ (32 : Byte).toNat ∧ (planned.entry 6).state ≠ .ownedBy .a ∧
    (planned.entry 5).state = .ownedBy .a ∧ planned.checkContents (.own .a) 5 (rawIn 19 16 0 0xFF) = .error .invalid ∧
    planned.checkContents (.own .a) 5 (rawIn 18 16 0 0xFF) = .ok .default :=
  ⟨serves_planned, by decide, by decide, by decide, by decide, by decide⟩

theorem test_witness_ReleaseEntryCommand : Serves planned .a ∧ 32 ≤ (32 : Byte).toNat ∧ (planned.entry 6).state ≠ .ownedBy .a ∧
    (planned.entry 5).state = .ownedBy .a ∧ LinkLaw planned :=
  ⟨serves_planned, by decide, by decide, by decide, linkLaw_planned⟩

/-- A free entry; a waiting ticket; a REQUEST at its quota; a full queue for a REQUEST and for a timer; room. -/
theorem test_witness_TriggerDecision : (planned.entry 7).state.inScope = false ∧ (planned.entry 6).state.inScope = true ∧
    ((crowd 6 (.port .a)).ticketOf 5).isSome = true ∧ (crowd 6 (.port .a)).ticketOf 6 = none ∧ 6 ≤ (crowd 6 (.port .a)).waiting .a ∧
    (crowd 24 (.timer 0)).waiting .a < 6 ∧ 24 ≤ (crowd 24 (.timer 0)).queue.length ∧ (crowd 24 (.timer 0)).ticketOf 24 = none ∧
    (crowd 23 (.timer 0)).queue.length < 24 := by decide

theorem test_witness_RequestAdmitted : Serves (crowd 5 (.port .a)) .a ∧ ((crowd 5 (.port .a)).entry 5).state = .shared ∧
    (crowd 5 (.port .a)).ticketOf 5 = none ∧ (crowd 5 (.port .a)).waiting .a < 6 ∧ (crowd 5 (.port .a)).queue.length < 24 ∧
    (crowd 5 (.port .a)).converter ≠ .idle :=
  ⟨⟨⟨rfl, by decide⟩, rfl⟩, by decide, by decide, by decide, by decide, by decide⟩

theorem test_witness_RequestAdmitted_idle : Serves idle .a ∧ (idle.entry 5).state = .scoped (.own .a) ∧ QueueLaw idle ∧
    idle.converter = .idle := ⟨⟨⟨rfl, by decide⟩, rfl⟩, by decide, queueLaw_of_empty rfl, rfl⟩

theorem test_witness_RequestOtherwise : Serves planned .b ∧ QueueLaw planned ∧ 32 ≤ (32 : Byte).toNat ∧
    (planned.entry 7).state.inScope = false ∧ (planned.entry 5).state = .ownedBy .a ∧ Port.a ≠ Port.b :=
  ⟨⟨⟨rfl, by decide⟩, rfl⟩, queueLaw_of_empty rfl, by decide, by decide, by decide, by decide⟩

theorem test_witness_RequestOtherwise_queue : Serves (crowd 6 (.port .a)) .a ∧ QueueLaw (crowd 6 (.port .a)) ∧
    ((crowd 6 (.port .a)).ticketOf 5).isSome = true ∧ (crowd 6 (.port .a)).ticketOf 6 = none ∧ (crowd 6 (.port .a)).waiting .a = 6 ∧
    Serves (crowd 24 (.timer 0)) .a ∧ QueueLaw (crowd 24 (.timer 0)) ∧ (crowd 24 (.timer 0)).ticketOf 24 = none ∧
    (crowd 24 (.timer 0)).waiting .a < 6 ∧ (crowd 24 (.timer 0)).queue.length = 24 :=
  ⟨⟨⟨rfl, by decide⟩, rfl⟩, queueLaw_crowd.1, by decide, by decide, by decide, ⟨⟨rfl, by decide⟩, rfl⟩, queueLaw_crowd.2,
    by decide, by decide, by decide⟩

theorem test_witness_CancelCommand : Serves (crowd 6 (.port .b)) .a ∧ ((crowd 6 (.port .b)).ticketOf 5).map (·.origin) = some (.port .b) ∧
    ((crowd 6 (.port .b)).entry 5).state = .shared ∧ (crowd 6 (.port .b)).ticketOf 6 = none ∧
    ((crowd 6 (.port .a)).ticketOf 5).map (·.origin) = some (.port .a) ∧ (planned.entry 5).state = .ownedBy .a ∧ Port.a ≠ Port.b :=
  ⟨⟨⟨rfl, by decide⟩, rfl⟩, by decide, by decide, by decide, by decide, by decide, by decide⟩

/-- Entry 5, PRIVATE to Port A, with its ticket. -/
def waiting5 : State := { planned with queue := [⟨5, .timer 0, 0, 9, 0⟩] }

theorem test_witness_CancelCommand_own : Serves waiting5 .a ∧ (waiting5.entry 5).state = .ownedBy .a ∧
    (waiting5.ticketOf 5).isSome = true := ⟨⟨⟨rfl, by decide⟩, rfl⟩, by decide, by decide⟩

theorem test_witness_TimerExpiryCommand : two.resetHeld = false ∧ ((two.setTimer 2 ⟨1, .running 0⟩).timer 2).run = .running 0 ∧
    (two.timer 2).run ≠ .running 0 := by decide

theorem test_witness_PinCommands : two.resetHeld = false ∧ (two.pin 0).since < 20 ∧ (two.pin 0).level = none ∧
    20 ≤ ((two.setPin 0 ⟨.off, none, 20⟩).pin 0).since ∧ ((two.setPin 0 ⟨.rising, some .low, 20⟩).pin 0).level = some .low ∧
    Level.low ≠ Level.high ∧ 20 ≤ ((two.setPin 0 ⟨.rising, some .low, 20⟩).pin 0).since ∧
    ((two.setPin 0 ⟨.rising, some .low, 20⟩).pin 0).mode = .rising ∧ ((two.setPin 0 ⟨.off, some .low, 4⟩).pin 0).mode = .off := by
  decide

theorem test_witness_ArbiterChoiceAndClass : ([⟨0, .timer 0, 3, 0, 0⟩] : List Ticket) ≠ [] ∧ (1 : BitVec 8) ≠ 0 ∧
    two.converter ≠ .idle ∧ two.queue = [] ∧ ({ crowd 1 (.port .a) with converter := .idle } : State).converter = .idle ∧
    (choose 0 0 (crowd 1 (.port .a)).queue).map (·.entry) = some 0 ∧
    ((crowd 1 (.port .a)).entry 0).state = .scoped .common := by decide

theorem test_witness_ConversionStages : idle.resetHeld = false ∧ sampling.work = some 0 ∧
    ({ sampling with converter := .sampling { copy6 with avg := .n2 } 0 0 false } : State).converter =
      .sampling { copy6 with avg := .n2 } 0 0 false ∧ 0 < volts.vref ∧ 0 + 1 < avgCount .n2 ∧
    ({ sampling with converter := .settling copy6 } : State).converter = .settling copy6 ∧
    ({ sampling with work := some 1 } : State).work ≠ some 0 := by decide

/-- The events that find another stage, no reference above ground, or a held reset. -/
theorem test_witness_ConversionStages_otherwise : held.resetHeld = true ∧ (∀ c, idle.converter ≠ .settling c) ∧
    (∀ c taken sum full, sampling.converter = .sampling c taken sum full → avgCount c.avg ≤ taken + 1) ∧
    (∀ c taken sum full, idle.converter = .sampling c taken sum full → taken + 1 < avgCount c.avg) ∧
    ({ volts with vref := 0 } : Analog).vref = 0 ∧ idle.converter ≠ .calibrating :=
  ⟨rfl, fun _ h => (nomatch h), fun _ _ _ _ h => by cases h; decide, fun _ _ _ _ h => (nomatch h), rfl, by decide⟩

theorem test_witness_CodesAndValue : 0 < volts.vref ∧ copy6.neg = .ground ∧ ({ copy6 with neg := .ain 3 } : Copy).neg = .ain 3 ∧
    (volts.vref : Int) ≤ 1 ∧ (16383 : Int) ≤ nominalCode copy6 { volts with zero := 1 } ∧ nominalCode copy6 volts ≤ 0 ∧
    0 < nominalCode copy6 { volts with zero := 1, vref := 2 } ∧ nominalCode copy6 { volts with zero := 1, vref := 2 } < 16383 ∧
    ([16383, 0] : List Int).length = avgCount .n2 ∧ (∀ x ∈ ([16383, 0] : List Int), lowCode copy6 ≤ x ∧ x ≤ highCode copy6) := by
  decide

theorem test_witness_CompletionCommand : sampling.resetHeld = false ∧ sampling.work = some 0 ∧
    sampling.converter = .sampling copy6 0 0 false ∧ 0 < volts.vref ∧ 0 + 1 = avgCount copy6.avg := by decide

/-- Monitor 3 with an accepted zone INSIDE, which a value of 1 leaves. -/
def inside3 (edge : MonitorEdge) (action : MonitorAction) : State :=
  watching.setMonitor 3 { Monitor.free 1 with
    state := .ownedBy .a, zone := some .inside
    contents := { MonitorContents.default with low := 0, high := 0, edge := edge, action := action } }

/-- A crossing that matches, with each action, one that does not, and no crossing. -/
theorem test_witness_CompletionCommand_monitors :
    ((inside3 .leaveInside .notify).monitor 3).state.inScope = true ∧
    ((inside3 .leaveInside .notify).monitor 3).contents.slot = 0 ∧
    (evaluate ((inside3 .leaveInside .notify).monitor 3) 1).2 = some (.inside, .above) ∧
    ((inside3 .enterAbove (.notifyAndTrigger 5)).monitor 3).contents.action = .notifyAndTrigger 5 ∧
    ¬(MonitorEdge.enterBelow = .anyChange ∨ MonitorEdge.enterBelow = .enterAbove ∧ Zone.above = .above ∨
      MonitorEdge.enterBelow = .enterBelow ∧ Zone.above = .below ∨ MonitorEdge.enterBelow = .leaveInside ∧ Zone.inside = .inside) ∧
    (evaluate ((inside3 .anyChange .notify).monitor 3) 0).2 = none := by decide

/-- The chain of a copy with a link: continued, at its eighth entry, stale, and with a linked entry out of the scope. -/
theorem test_witness_ChainDecision : copy6.link = none ∧ ({ copy6 with link := some 4 } : Copy).link = some 4 ∧
    ((crowd 0 (.port .a)).entry 6).revision = copy6.revision ∧
    (((crowd 0 (.port .a)).setEntry 6 { (crowd 0 (.port .a)).entry 6 with
      contents := { EntryContents.default with link := some 4 } }).entry 6).contents.link = some 4 ∧
    ((crowd 0 (.port .a)).entry 4).state = .scoped copy6.scope ∧ copy6.position < 8 ∧ 8 ≤ ({ copy6 with position := 8 } : Copy).position ∧
    ((two.entry 6).revision ≠ copy6.revision) ∧ (planned.entry 4).state ≠ .scoped copy6.scope := by decide

theorem test_witness_CalibrationEndCommand : one.resetHeld = false ∧ QueueLaw one ∧ ({ one with work := some 0 } : State).work = some 0 ∧
    one.converter = .calibrating ∧ one.clock.phase = .none ∧ one.queue = [] ∧
    QueueLaw (crowd 6 (.port .a)) ∧ (choose 0 0 (crowd 6 (.port .a)).queue).isSome = true ∧
    draining.resetHeld = false ∧ QueueLaw draining ∧ draining.work = some 0 ∧ draining.converter = .calibrating ∧
    draining.clock.phase = .draining ⟨.internal, .d2⟩ :=
  ⟨rfl, queueLaw_of_empty rfl, rfl, rfl, rfl, rfl, queueLaw_crowd.1, by decide, rfl, queueLaw_of_empty rfl, rfl, rfl, rfl⟩

/-- The parts of ClockSwitchBeginsAndAcquires: the active setting, another one with the converter at work and IDLE, EXTERNAL
on EXTERNAL at the limit and above it, and each other mode from another. -/
theorem test_witness_ClockSwitchBeginsAndAcquires : (⟨.internal, .d1⟩ : ClockSetting) = one.clock.active ∧
    (⟨.internal, .d2⟩ : ClockSetting) ≠ one.clock.active ∧ one.converter ≠ .idle ∧ idle.converter = .idle ∧
    16 * 256 * dividerCount .d1 < 4097 ∧ 4096 ≤ 16 * 256 * dividerCount .d1 ∧ ClockMode.multiplied ≠ one.clock.active.mode ∧
    ClockMode.external ≠ one.clock.active.mode := by decide

theorem test_witness_LockReportCommand : locking.resetHeld = false ∧ locking.clock.phase = .acquiring ⟨.multiplied, .d2⟩ ∧
    locking.clock.loop = .starting ∧ one.clock.loop ≠ .starting ∧ one.clock.phase = .none := by decide

theorem clockLaw_acquiring (d : Divider) (x : ClkinRun) (hx : RunLaw x) : ClockLaw (acquiring d (some x)) := by
  refine ⟨⟨fun _ => ⟨_, rfl⟩, fun _ => rfl⟩, ?_, ⟨fun _ => ⟨_, rfl⟩, ?_⟩, ?_, ⟨?_, ?_⟩, ⟨?_, ?_⟩, ⟨?_, ?_⟩, ?_, ?_,
    fun _ => ⟨_, rfl, rfl⟩, fun y h => Option.some.inj h ▸ hx⟩
  · rintro ⟨r, h⟩; cases h
  · intro _ h; cases h
  · intro r h; cases h; exact ⟨fun h2 => ClockMode.noConfusion h2, fun h2 => ClockMode.noConfusion h2⟩
  · intro h; exact absurd rfl h
  · intro h; cases h
  · intro h; cases h
  · intro h; cases h
  · intro h; cases h
  · rintro ⟨r, h, h2⟩; cases h; cases h2
  · intro h; cases h
  · intro r h; cases h; intro h2; cases h2

theorem clockLaw_qualifying (d : Divider) :
    ClockLaw (qualifying d 4096) ∧ ClockLaw (qualifying d 4097) :=
  ⟨clockLaw_acquiring d _ ⟨by decide, by decide, by decide, by decide, by decide, by decide⟩,
    clockLaw_acquiring d _ ⟨by decide, by decide, by decide, by decide, by decide, by decide⟩⟩

/-- The slowest and the fastest run of 256 µs: 4 MHz and 40 MHz. -/
theorem test_runLaw_bounds : RunLaw ⟨1024, 20480, 20⟩ ∧ RunLaw ⟨10240, 20480, 2⟩ :=
  ⟨⟨by decide, by decide, by decide, by decide, by decide, by decide⟩,
    ⟨by decide, by decide, by decide, by decide, by decide, by decide⟩⟩

/-- A ticket waits while EXTERNAL is being acquired. -/
theorem test_witness_QualificationCommand_ticket :
    (choose 0 0 ({ qualifying .d1 4097 with queue := [⟨6, .timer 0, 0, 9, 0⟩] } : State).queue).map (·.entry) = some 6 ∧
    ((qualifying .d1 4097).entry 6).state = .scoped .common := by decide

/-- Both outcomes at the limit of 16 MHz, and a state without a run. -/
theorem test_witness_QualificationCommand : (qualifying .d1 4096).resetHeld = false ∧ ClockLaw (qualifying .d1 4096) ∧
    ClockLaw (qualifying .d1 4097) ∧ (∀ n, (qualifying .d1 n).clock.phase = .acquiring ⟨.external, .d1⟩ ∧
      (qualifying .d1 n).clock.run = some ⟨n, 20480, 5⟩ ∧ (qualifying .d1 n).queue = []) ∧ 20480 = 256 * 80 ∧
    4096 ≤ 4096 * dividerCount .d1 ∧ 4096 * dividerCount .d1 < 4097 ∧ (acquiring .d1 none).resetHeld = false ∧
    (acquiring .d1 none).clock.run = none :=
  ⟨rfl, (clockLaw_qualifying .d1).1, (clockLaw_qualifying .d1).2, fun _ => ⟨rfl, rfl, rfl⟩, rfl, by decide, by decide, rfl,
    rfl⟩

theorem test_witness_AcquisitionDeadlineCommand : locking.resetHeld = false ∧ locking.clock.phase = .acquiring ⟨.multiplied, .d2⟩ ∧
    locking.clock.deadline = some locking.timebase ∧ ClockMode.multiplied ≠ ClockMode.internal := by decide

theorem test_witness_SnapshotCommands : Serves one .a ∧
    ¬(1 ≤ (0 : Byte).toNat ∧ (0 : Byte).toNat ≤ 16 ∧ (0 : Byte).toNat ≤ 63 ∧ (0 : Byte).toNat + (0 : Byte).toNat - 1 ≤ 63) ∧
    1 ≤ (16 : Byte).toNat ∧ (16 : Byte).toNat ≤ 16 ∧ (48 : Byte).toNat + (16 : Byte).toNat ≤ 64 ∧ (one.port .a).snapshot = [] ∧
    ((one.setPort .a { online with snapshot := [(63, .reset)] }).port .a).snapshot = (63, .reset) :: [] :=
  ⟨serves_one, by decide, by decide, by decide, by decide, rfl, rfl⟩

/-- Contents of a monitor with limits 0 and `high`. -/
def rawLimits (high : BitVec 16) (action target : Byte) : RawMonitor := ⟨0, 0, high, 0, 1, 0, action, target⟩

theorem test_witness_ChangeMonitorCommands : Serves watching .a ∧ (watching.monitor 4).state = .free ∧ watching.monitorCount .a < 6 ∧
    (watching.monitor 3).state = .ownedBy .a ∧ (readMonitorContents (rawLimits 0 0 0xFF)).isSome = true ∧
    (0 : BitVec 16).toInt ≤ (0 : BitVec 16).toInt ∧ readMonitorContents (rawLimits 0 0 0) = none ∧
    (0xFFFF : BitVec 16).toInt < (0 : BitVec 16).toInt ∧
    (readMonitorContents (rawLimits 0 1 6)).map (·.action) = some (.notifyAndTrigger 6) ∧ (watching.entry 6).state ≠ .ownedBy .a ∧
    12 ≤ (12 : Byte).toNat :=
  ⟨⟨⟨rfl, by decide⟩, rfl⟩, by decide, by decide, by decide, by decide, by decide, by decide, by decide, by decide, by decide, by decide⟩

theorem test_witness_ChangeMonitorCommands_quota :
    6 ≤ ({ two with monitors := ⟨List.replicate 6 { Monitor.free 1 with state := .ownedBy .a } ++ List.replicate 6 (.free 0), rfl⟩ } : State).monitorCount .a := by
  decide

/-- A monitor with persistence 2 that has no zone, keeps its zone, counts a candidate, and accepts it. -/
theorem test_witness_MonitorEvaluation : (Monitor.free 1).contents.low.toInt ≤ (Monitor.free 1).contents.high.toInt ∧ (Monitor.free 1).zone = none ∧
    rawZone { MonitorContents.default with high := 10 } (some .inside) 10 = .inside ∧
    rawZone { MonitorContents.default with high := 10 } (some .inside) 11 = .above ∧
    (1 : Nat) ≠ persistCount .p2 ∧ 2 = persistCount .p2 := by decide

theorem test_witness_ProposeChecks : Serves (voting (.agingSet 1)) .b ∧ (voting (.agingSet 1)).proposal = some (offer (.agingSet 1)) ∧
    Serves two .a ∧ two.proposal = none ∧ Serves locking .a ∧ locking.clock.phase ≠ .none ∧ two.clock.phase = .none ∧
    two.readSubject (.windowSet 0) = .error .invalid :=
  ⟨⟨⟨rfl, by decide⟩, rfl⟩, rfl, serves_two, rfl, ⟨⟨rfl, by decide⟩, rfl⟩, by decide, rfl, rfl⟩

/-- Each kind of subject at the edge of its check. -/
theorem test_witness_ProposeChecks_subjects : (planned.entry 7).state = .free ∧ (planned.entry 6).state = .shared ∧
    planned.checkContents .common 6 (rawIn 18 16 0 0xFF) = .ok .default ∧
    planned.checkContents .common 6 (rawIn 18 16 0 5) = .error .chainInvalid ∧
    (planned.entry 5).state ≠ .free ∧ (planned.entry 5).state ≠ .shared ∧ (two.monitor 4).state ≠ .shared ∧
    ((two.setMonitor 4 { Monitor.free 0 with state := .shared }).monitor 4).state = .shared ∧ (1 : BitVec 16) ≠ 0 ∧
    32 ≤ (32 : Byte).toNat ∧ 12 ≤ (12 : Byte).toNat ∧ (watching.monitor 3).state ≠ .free ∧ (watching.monitor 3).state ≠ .shared ∧
    readMonitorContents (rawLimits 0 0 0) = none ∧
    (readMonitorContents (rawLimits 0 1 5)).map (·.action) = some (.notifyAndTrigger 5) ∧ (planned.entry 5).state ≠ .shared ∧
    (readMonitorContents (rawLimits 0 1 6)).map (·.action) = some (.notifyAndTrigger 6) ∧ (two.monitor 4).state = .free ∧
    (readMonitorContents (rawLimits 0xFFFF 0 0xFF)).map (fun c => decide (c.high.toInt < c.low.toInt)) = some true ∧
    4 ≤ (4 : Byte).toNat ∧ 2 ≤ (2 : Byte).toNat ∧ 2 < (3 : Byte).toNat ∧ (3 : Byte) ∉ [1, 2, 4, 8] ∧ (2 : Byte).toNat ≤ 2 ∧
    (8 : Byte) ∈ [1, 2, 4, 8] ∧ (1 : BitVec 8) ≠ 0 := by decide

theorem test_witness_ProposeOpens : Serves two .a ∧ two.proposal = none ∧ Port.b ≠ Port.a ∧ (two.port .b).attached = true ∧
    two.readSubject (.windowSet 1) = .ok (.windowSet 1) ∧ two.readSubject (.entrySet 4 (rawIn 18 16 0 0xFF)) = .ok (.entrySet 4 .default) ∧
    (two.entry 4).state = .free := ⟨serves_two, rfl, by decide, rfl, rfl, by decide, by decide⟩

theorem test_witness_ProposeAdoptsAlone : Serves one .a ∧ one.proposal = none ∧ (∀ q, q ≠ .a → (one.port q).attached = false) ∧
    one.clock.phase = .none ∧ one.readSubject (.clockSet 1 2) = .ok (.clockSet ⟨.multiplied, .d2⟩) :=
  ⟨serves_one, rfl, fun q h => by cases q <;> first | rfl | exact absurd rfl h, rfl, by decide⟩

theorem test_witness_AdoptionInstalls : (planned.entry 7).state = .free ∧ (planned.entry 6).state = .shared ∧ LinkLaw planned ∧
    (two.monitor 4).state = .free ∧ ((two.setMonitor 4 { Monitor.free 0 with state := .shared }).monitor 4).state = .shared :=
  ⟨by decide, by decide, linkLaw_planned, by decide, by decide⟩

theorem test_witness_VoteCommand : Serves (voting (.agingSet 1)) .b ∧ (3 : Byte) ≠ 1 ∧ (3 : Byte) ≠ 2 ∧
    (voting (.agingSet 1)).proposal = some (offer (.agingSet 1)) ∧ (offer (.agingSet 1)).id ≠ 8 ∧ (offer (.agingSet 1)).id = 7 ∧
    (offer (.agingSet 1)).required.get .a = false ∧ (offer (.agingSet 1)).required.get .b = true ∧
    (offer (.agingSet 1)).accepted.get .b = false ∧ ((offer (.agingSet 1)).acceptedBy .b).outstanding = 0 ∧
    (({ offer (.agingSet 1) with required := ⟨false, true, true⟩ } : Proposal).acceptedBy .b).outstanding ≠ 0 ∧
    (({ offer (.agingSet 1) with required := ⟨false, true, true⟩ } : Proposal).acceptedBy .b).accepted.get .b = true :=
  ⟨⟨⟨rfl, by decide⟩, rfl⟩, by decide, by decide, rfl, by decide, rfl, rfl, rfl, rfl, by decide, by decide, rfl⟩

theorem test_witness_WithdrawAndExpiryCommands : Serves (voting (.agingSet 1)) .a ∧
    (voting (.agingSet 1)).proposal = some (offer (.agingSet 1)) ∧ (offer (.agingSet 1)).id ≠ 8 ∧ (offer (.agingSet 1)).author ≠ .b ∧
    (offer (.agingSet 1)).author = .a ∧ (voting (.agingSet 1)).resetHeld = false ∧
    (offer (.agingSet 1)).deadline = (voting (.agingSet 1)).timebase ∧
    (offer (.agingSet 1)).deadline ≠ ({ voting (.agingSet 1) with timebase := 1 } : State).timebase ∧ two.proposal = none :=
  ⟨⟨⟨rfl, by decide⟩, rfl⟩, rfl, by decide, by decide, rfl, rfl, rfl, by decide, rfl⟩

/-- A state without a proposal and without reserved items keeps the law of proposals. -/
theorem proposalLaw_of_none {s : State} (hp : s.proposal = none) (he : ∀ e, (s.entry e).state ≠ .reserved)
    (hm : ∀ m, (s.monitor m).state ≠ .reserved) : ProposalLaw s := by
  refine ⟨?_, ?_, ?_, ?_, ?_, fun e h => absurd h (he e), fun m h => absurd h (hm m)⟩
  all_goals (intro pr h; rw [hp] at h; cases h)

theorem test_witness_StepKeepsQueueLaw : QueueLaw (crowd 6 (.port .a)) ∧
    step (crowd 6 (.port .a)) = .next (crowd 6 (.port .a)).tick := ⟨queueLaw_crowd.1, rfl⟩

theorem test_witness_StepKeepsPortLaw : LinkPortsLaw two ∧ step two = .next two.tick := by
  refine ⟨fun p => ?_, rfl⟩
  cases p with
  | a => exact portLaw_online 0 none (by decide)
  | b => exact portLaw_online 0 none (by decide)
  | c => exact ⟨fun _ => ⟨rfl, rfl, rfl, rfl, rfl, rfl⟩, fun h => Bool.noConfusion h,
      ⟨by decide, fun r hr => (nomatch hr), by decide⟩, ⟨by decide, trivial⟩, by decide, by decide⟩

theorem test_witness_StepKeepsOwnersAndContents : OwnerLaw planned ∧ ContentsLaw planned ∧
    step planned = .next planned.tick := by
  refine ⟨⟨?_, ?_, ?_, ?_⟩, ⟨by decide, by decide, by decide, ?_, fun pr m c h => (nomatch h)⟩, rfl⟩
  · intro e p h
    cases p with
    | a => rfl
    | b => rfl
    | c => exact absurd h ((by decide : ∀ e, (planned.entry e).state ≠ .ownedBy .c) e)
  · intro m p h
    cases p with
    | a => rfl
    | b => rfl
    | c => exact absurd h ((by decide : ∀ m, (planned.monitor m).state ≠ .ownedBy .c) m)
  · intro p; cases p <;> decide
  · intro p; cases p <;> decide
  · intro m z n h
    rw [(by decide : ∀ m, (planned.monitor m).candidate = none) m] at h
    cases h

theorem test_witness_StepKeepsProposalLaw : ProposalLaw planned ∧ step planned = .next planned.tick :=
  ⟨proposalLaw_of_none rfl (by decide) (by decide), rfl⟩

theorem test_witness_StepKeepsLinkLaw : LinkLaw planned ∧ ContentsLaw planned ∧ ProposalLaw planned ∧
    step planned = .next planned.tick :=
  ⟨linkLaw_planned, test_witness_StepKeepsOwnersAndContents.2.1, test_witness_StepKeepsProposalLaw.1, rfl⟩

/-- EXTERNAL is being acquired, and a run has lasted 256 µs. -/
theorem test_witness_StepKeepsClockAndConverter : ClockLaw (qualifying .d1 4096) ∧ ConverterLaw (qualifying .d1 4096) ∧
    ProposalLaw (qualifying .d1 4096) ∧ HeldLaw (qualifying .d1 4096) ∧
    step (qualifying .d1 4096) = exec (.qualification 4096) (qualifying .d1 4096).spendFresh :=
  ⟨(clockLaw_qualifying .d1).1,
    ⟨fun _ => rfl, fun _ h => absurd rfl h, fun c h => (nomatch h), fun c _ _ _ h => (nomatch h), fun h => (nomatch h)⟩,
    proposalLaw_of_none rfl (by decide) (by decide), fun h => Bool.noConfusion h, rfl⟩

/-- A state with a device reset held, where no time passes. -/
theorem test_witness_StepKeepsSlotAndHeldLaw : SlotLaw two ∧ HeldLaw two ∧ step two = .next two.tick ∧
    (deviceResetEvent .pin planned).resetHeld = true ∧ HeldLaw (deviceResetEvent .pin planned) ∧
    step (deviceResetEvent .pin planned) = .next (deviceResetEvent .pin planned) := by
  refine ⟨⟨by decide, by decide⟩, fun h => Bool.noConfusion h, rfl, rfl, fun _ => ⟨by decide, fun p => ?_⟩, rfl⟩
  cases p <;> exact ⟨.idle, rfl⟩

end Sys2Proof.Tests
end

section
/-! CLAIM_ENTRY at the Plan Table (R11): what the block answers in each of its cases, and the command's statement. -/

namespace Sys2Proof.Machine

/-! ### The block, one equation for each check of R11 -/

/-- Check 1 of R11. -/
theorem claimEntryBlock_of_index_too_large {e : Byte} (h : 32 ≤ e.toNat) (p : Port) (s : State) :
    claimEntryBlock p e s = (s, .bare .invalid) := by
  rw [claimEntryBlock, indexOf_eq_none h]

/-- Check 2 of R11. -/
theorem claimEntryBlock_of_not_free {s : State} {e : EntryId} (h : (s.entry e).state ≠ .free) (p : Port) :
    claimEntryBlock p (BitVec.ofNat 8 e.val) s = (s, .bare .busy) := by
  simp [claimEntryBlock, h]

/-- Check 3 of R11. -/
theorem claimEntryBlock_of_quota_reached {s : State} {p : Port} {e : EntryId} (hf : (s.entry e).state = .free)
    (hq : 16 ≤ s.entryCount p) : claimEntryBlock p (BitVec.ofNat 8 e.val) s = (s, .bare .quota) := by
  simp [claimEntryBlock, hf, hq]

/-- A claim that passes the checks of R11. -/
theorem claimEntryBlock_of_free_below_quota {s : State} {p : Port} {e : EntryId} (hf : (s.entry e).state = .free)
    (hq : s.entryCount p < 16) :
    claimEntryBlock p (BitVec.ofNat 8 e.val) s =
      (s.setEntry e ((s.entry e).install (.ownedBy p) (s.entry e).contents), ⟨.ok, [(s.entry e).revision + 1]⟩) := by
  simp [claimEntryBlock, hf, Nat.not_le.mpr hq]

/-! ### The command -/

theorem exec_claimEntry (p : Port) (tag e : Byte) (s : State) :
    exec (.claimEntry p tag e) s = .next (s.answerAttached p tag 0x10 (claimEntryBlock p e)) := by
  rfl

/-- A claim that a check refuses changes nothing beyond its answer. -/
theorem exec_claimEntry_of_refused {s : State} {p : Port} (hs : Serves s p) (tag : Byte) {e : Byte} {st : Status}
    (hb : claimEntryBlock p e (s.endFrame p) = (s.endFrame p, .bare st)) :
    exec (.claimEntry p tag e) s = .next (s.answered p ⟨tag, 0x10, st, []⟩) := by
  rw [exec_claimEntry, answerAttached_unchanged hs hb]

/-- A claim that passes the checks installs the entry as PRIVATE to the port; the end of the frame, which the block finds
already made, and the writing of the entry touch different parts of the state. -/
theorem exec_claimEntry_of_free_below_quota {s : State} {p : Port} (hs : Serves s p) (tag : Byte) {e : EntryId}
    (hf : (s.entry e).state = .free) (hq : s.entryCount p < 16) :
    exec (.claimEntry p tag (BitVec.ofNat 8 e.val)) s =
      .next ((s.setEntry e ((s.entry e).install (.ownedBy p) (s.entry e).contents)).answered p
        ⟨tag, 0x10, .ok, [(s.entry e).revision + 1]⟩) := by
  have hb := claimEntryBlock_of_free_below_quota (s := s.endFrame p) (p := p) (e := e)
    (by simpa using hf) (by simpa using hq)
  rw [State.entry_endFrame, endFrame_eq, State.setEntry_setPort] at hb
  rw [exec_claimEntry, answerAttached_eq_answered hs hb rfl rfl]

/-- Settles O24: each outcome is the one that the block's checks give, seen from the state at the frame's end. -/
theorem claimEntryCommand : Obligations.ClaimEntryCommand := by
  intro s p tag hs
  refine ⟨fun e he => ?invalid, fun e => ⟨fun hf => ?busy, fun hf hq => ?quota, fun hf hq => ?ok⟩⟩
  case invalid => exact exec_claimEntry_of_refused hs tag (claimEntryBlock_of_index_too_large he p _)
  case busy => exact exec_claimEntry_of_refused hs tag (claimEntryBlock_of_not_free (by simpa using hf) p)
  case quota =>
    exact exec_claimEntry_of_refused hs tag (claimEntryBlock_of_quota_reached (by simpa using hf) (by simpa using hq))
  case ok => exact exec_claimEntry_of_free_below_quota hs tag hf hq

end Sys2Proof.Machine
end

section
/-! The Dispatch Queue's decision on a trigger (R42): one equation for each of its five steps, and the statement. -/

namespace Sys2Proof.Machine

/-! ### The origin of a trigger -/

/-- Step 3 of R42 applies exactly to a REQUEST of a port with 6 tickets waiting. -/
theorem atQuota_iff {s : State} {o : Origin} : s.atQuota o = true ↔ ∃ p, o = .port p ∧ 6 ≤ s.waiting p := by
  cases o <;> simp [State.atQuota, Origin.port?]

/-- Step 3 of R42 is passed by a REQUEST of a port below its quota, and by every trigger of another origin. -/
theorem not_atQuota_of_waiting_lt {s : State} {o : Origin} (h : ∀ p, o = .port p → s.waiting p < 6) :
    s.atQuota o ≠ true := by
  rw [ne_eq, atQuota_iff]
  rintro ⟨p, ho, hw⟩
  exact absurd (h p ho) (Nat.not_lt.mpr hw)

/-- A dropped REQUEST changes nothing (R45). -/
theorem dropTrigger_port (s : State) (e : EntryId) (p : Port) : s.dropTrigger e (.port p) = s := rfl

/-- A dropped trigger of a timer, a pin or a monitor is counted and told (R45). -/
theorem dropTrigger_of_not_port (s : State) (e : EntryId) {o : Origin} (h : ∀ p, o ≠ .port p) :
    s.dropTrigger e o = (s.setEntry e { s.entry e with drops := satInc (s.entry e).drops }).raise (.dropped e)
      (s.noticeSet (s.entry e).state (·.loss)) := by
  cases o with
  | port p => exact absurd rfl (h p)
  | timer _ => rfl
  | pin _ => rfl
  | monitor _ => rfl

/-! ### The decision, one equation for each step of R42 -/

section
variable {s : State} {e : EntryId} {o : Origin}

/-- Step 1 of R42. -/
theorem trigger_of_not_inScope (hsc : (s.entry e).state.inScope = false) : s.trigger e o = (s, .notAdmitted) := by
  simp [State.trigger, hsc]

/-- Step 2 of R42. -/
theorem trigger_of_ticket (hsc : (s.entry e).state.inScope = true) {k : Ticket} (hk : s.ticketOf e = some k) :
    s.trigger e o = (s.coalesce e, .coalesced k.number (satInc (s.entry e).overruns)) := by
  simp [State.trigger, hsc, hk]

/-- Step 3 of R42. -/
theorem trigger_of_atQuota (hsc : (s.entry e).state.inScope = true) (hk : s.ticketOf e = none)
    (hq : s.atQuota o = true) : s.trigger e o = (s, .quota) := by
  simp [State.trigger, hsc, hk, hq]

/-- Step 4 of R42. -/
theorem trigger_of_full (hsc : (s.entry e).state.inScope = true) (hk : s.ticketOf e = none)
    (hq : s.atQuota o ≠ true) (hl : 24 ≤ s.queue.length) : s.trigger e o = (s.dropTrigger e o, .full) := by
  simp [State.trigger, hsc, hk, hq, hl]

/-- Step 5 of R42. -/
theorem trigger_of_room (hsc : (s.entry e).state.inScope = true) (hk : s.ticketOf e = none)
    (hq : s.atQuota o ≠ true) (hl : s.queue.length < 24) :
    s.trigger e o = (s.append e o, .admitted s.arrival) := by
  simp [State.trigger, hsc, hk, hq, Nat.not_le.mpr hl]

end

/-! ### The statement -/

/-- Settles O28: each outcome is the equation of its step, under the failure of the steps before it. -/
theorem triggerDecision : Obligations.TriggerDecision := by
  intro s e o
  refine ⟨trigger_of_not_inScope, fun hsc => ⟨fun k hk => trigger_of_ticket hsc hk, fun hk => ⟨?quota, ?full, ?room⟩⟩⟩
  case quota => exact fun p ho hw => trigger_of_atQuota hsc hk (atQuota_iff.mpr ⟨p, ho, hw⟩)
  case full =>
    intro hw hl
    have hfull := trigger_of_full hsc hk (not_atQuota_of_waiting_lt hw) hl
    refine ⟨fun p ho => ?request, fun ho => ?other⟩
    case request =>
      subst ho
      rw [hfull, dropTrigger_port]
    case other => rw [hfull, dropTrigger_of_not_port s e ho]
  case room => exact fun hw hl => trigger_of_room hsc hk (not_atQuota_of_waiting_lt hw) hl

end Sys2Proof.Machine
end

section
/-! CANCEL at the Dispatch Queue (R52): what the block answers at each of its checks, and the command's statement. -/

namespace Sys2Proof.Machine

/-! ### What the checks read and what the removal changes -/

/-- What check 2 of R52 tests: the item is PRIVATE to another port. -/
theorem inScope_and_ne_shared_and_ne_ownedBy_iff {x : ItemState} {p : Port} :
    (x.inScope && x != .shared && x != .ownedBy p) = true ↔ ∃ q, q ≠ p ∧ x = .ownedBy q := by
  rcases x with _ | _ | (q | _) <;> simp [ItemState.inScope]

/-- An item PRIVATE to no other port passes check 2 of R52. -/
theorem not_owned_by_other {x : ItemState} {p : Port} (h : ∀ q, x = .ownedBy q → q = p) :
    ¬(x.inScope && x != .shared && x != .ownedBy p) = true := by
  rw [inScope_and_ne_shared_and_ne_ownedBy_iff]
  rintro ⟨q, hq, hx⟩
  exact hq (h q hx)

/-- The removal of a ticket changes the queue alone. -/
theorem dropTicket_eq (s : State) (e : EntryId) :
    s.dropTicket e = { s with queue := s.queue.filter fun t => t.entry ≠ e } := by
  have hf : (s.queue.filter fun t => t.entry != e) = s.queue.filter fun t => t.entry ≠ e :=
    List.filter_congr fun t _ => by by_cases ht : t.entry = e <;> simp [ht]
  rw [State.dropTicket, hf]

/-! ### The block, one equation for each check of R52 -/

/-- Check 1 of R52. -/
theorem cancelBlock_of_index_too_large {e : Byte} (h : 32 ≤ e.toNat) (p : Port) (s : State) :
    cancelBlock p e s = (s, .bare .invalid) := by
  rw [cancelBlock, indexOf_eq_none h]

section
variable {s : State} {p : Port} {e : EntryId}

/-- Check 2 of R52. -/
theorem cancelBlock_of_owned_by_other {q : Port} (hq : q ≠ p) (he : (s.entry e).state = .ownedBy q) :
    cancelBlock p (BitVec.ofNat 8 e.val) s = (s, .bare .denied) := by
  have hd := inScope_and_ne_shared_and_ne_ownedBy_iff.mpr ⟨q, hq, he⟩
  rw [cancelBlock, indexOf_ofNat_fin32]
  exact if_pos hd

/-- Check 3 of R52. -/
theorem cancelBlock_of_no_ticket (he : ∀ q, (s.entry e).state = .ownedBy q → q = p) (hk : s.ticketOf e = none) :
    cancelBlock p (BitVec.ofNat 8 e.val) s = (s, .bare .noData) := by
  rw [cancelBlock, indexOf_ofNat_fin32]
  simp only [if_neg (not_owned_by_other he), hk]

/-- Check 4 of R52. -/
theorem cancelBlock_of_other_origin {k : Ticket} (he : (s.entry e).state = .shared) (hk : s.ticketOf e = some k)
    (ho : k.origin ≠ .port p) : cancelBlock p (BitVec.ofNat 8 e.val) s = (s, .bare .denied) := by
  rw [cancelBlock, indexOf_ofNat_fin32]
  simp [he, hk, ho]

/-- A cancellation that passes the checks of R52. -/
theorem cancelBlock_of_allowed {k : Ticket} (he : ∀ q, (s.entry e).state = .ownedBy q → q = p)
    (hk : s.ticketOf e = some k) (ho : (s.entry e).state = .shared → k.origin = .port p) :
    cancelBlock p (BitVec.ofNat 8 e.val) s = (s.dropTicket e, ⟨.ok, be16 k.number⟩) := by
  have hnot : ¬((s.entry e).state = .shared ∧ k.origin ≠ .port p) := fun h => h.2 (ho h.1)
  rw [cancelBlock, indexOf_ofNat_fin32]
  simp only [if_neg (not_owned_by_other he), hk, if_neg hnot]

end

/-! ### The command -/

theorem exec_cancel (p : Port) (tag e : Byte) (s : State) :
    exec (.cancel p tag e) s = .next (s.answerAttached p tag 0x19 (cancelBlock p e)) := by
  rfl

/-- A cancellation that a check refuses changes nothing beyond its answer. -/
theorem exec_cancel_of_refused {s : State} {p : Port} (hs : Serves s p) (tag : Byte) {e : Byte} {st : Status}
    (hb : cancelBlock p e (s.endFrame p) = (s.endFrame p, .bare st)) :
    exec (.cancel p tag e) s = .next (s.answered p ⟨tag, 0x19, st, []⟩) := by
  rw [exec_cancel, answerAttached_unchanged hs hb]

/-- A cancellation that passes the checks removes the ticket; the end of the frame, which the block finds already made,
does not touch the queue. -/
theorem exec_cancel_of_allowed {s : State} {p : Port} (hs : Serves s p) (tag : Byte) {e : EntryId} {k : Ticket}
    (he : ∀ q, (s.entry e).state = .ownedBy q → q = p) (hk : s.ticketOf e = some k)
    (ho : (s.entry e).state = .shared → k.origin = .port p) :
    exec (.cancel p tag (BitVec.ofNat 8 e.val)) s =
      .next (({ s with queue := s.queue.filter fun x => x.entry ≠ e } : State).answered p
        ⟨tag, 0x19, .ok, be16 k.number⟩) := by
  have hb := cancelBlock_of_allowed (s := s.endFrame p) (p := p) (e := e) (k := k)
    (by simpa using he) (by simpa using hk) (by simpa using ho)
  rw [endFrame_eq, State.dropTicket_setPort] at hb
  rw [exec_cancel, answerAttached_eq_answered hs hb rfl rfl, dropTicket_eq]

/-- Settles O31: each outcome is the one that the block's checks give, seen from the state at the frame's end. -/
theorem cancelCommand : Obligations.CancelCommand := by
  intro s p tag hs
  refine ⟨fun e hi => ?invalid, fun e => ⟨fun q hq he => ?foreign, fun he =>
    ⟨fun hk => ?noData, fun k hk => ⟨?origin, ?common, ?own⟩⟩⟩⟩
  case invalid => exact exec_cancel_of_refused hs tag (cancelBlock_of_index_too_large hi p _)
  case foreign => exact exec_cancel_of_refused hs tag (cancelBlock_of_owned_by_other hq (by simpa using he))
  case noData =>
    exact exec_cancel_of_refused hs tag (cancelBlock_of_no_ticket (by simpa using he) (by simpa using hk))
  case origin =>
    intro hc ho
    exact exec_cancel_of_refused hs tag (cancelBlock_of_other_origin (by simpa using hc) (by simpa using hk) ho)
  case common => exact fun _ ho => exec_cancel_of_allowed hs tag he hk fun _ => ho
  case own =>
    intro hp
    exact exec_cancel_of_allowed hs tag he hk fun hc => by simp [hp] at hc

end Sys2Proof.Machine
end

section
/-! The evaluation of a value by a monitor (R126, R127): the table of the raw zone row by row, the count of a candidate, one
equation for each outcome of an evaluation, and the statement. -/

namespace Sys2Proof.Machine

/-! ### The raw zone, one equation for each row of R126 -/

theorem rawZone_above (c : MonitorContents) (v : Int) : rawZone c (some .above) v =
    if c.high.toInt - (c.hyst.val : Int) ≤ v then .above else if v < c.low.toInt then .below else .inside := rfl

theorem rawZone_below (c : MonitorContents) (v : Int) : rawZone c (some .below) v =
    if v ≤ c.low.toInt + (c.hyst.val : Int) then .below else if c.high.toInt < v then .above else .inside := rfl

/-- The hysteresis works only against leaving ABOVE and BELOW. -/
theorem rawZone_of_unknown_or_inside (c : MonitorContents) {z : Option Zone} (hz : z = none ∨ z = some .inside) (v : Int) :
    rawZone c z v = if v < c.low.toInt then .below else if c.high.toInt < v then .above else .inside := by
  obtain rfl | rfl := hz <;> rfl

/-! ### The count of successive evaluations that point to one zone -/

/-- The raw zone is the candidate zone: the count goes on. -/
theorem runLength_same (raw : Zone) (k : Nat) : runLength (some (raw, k)) raw = k + 1 := by
  simp [runLength]

/-- There is no candidate, or the raw zone is another one: the count starts again. -/
theorem runLength_of_not_candidate {candidate : Option (Zone × Nat)} {raw : Zone}
    (h : ∀ k, candidate ≠ some (raw, k)) : runLength candidate raw = 1 := by
  cases candidate with
  | none => rfl
  | some x =>
    obtain ⟨z, k⟩ := x
    have hz : z ≠ raw := fun e => h k (by rw [e])
    simp [runLength, hz]

/-- The two rules of R127 for the count, one for a raw zone that is the candidate zone and one for any other, determine it. -/
theorem runLength_eq {candidate : Option (Zone × Nat)} {raw : Zone} {n : Nat}
    (hsame : ∀ k, candidate = some (raw, k) → n = k + 1) (hother : (∀ k, candidate ≠ some (raw, k)) → n = 1) :
    runLength candidate raw = n := by
  by_cases h : ∃ k, candidate = some (raw, k)
  · obtain ⟨k, hk⟩ := h
    rw [hk, runLength_same, hsame k hk]
  · have hne : ∀ k, candidate ≠ some (raw, k) := not_exists.mp h
    rw [runLength_of_not_candidate hne, hother hne]

/-! ### The evaluation, one equation for each outcome of R127 -/

/-- The first evaluation. -/
theorem evaluate_of_unknown {m : Monitor} (hz : m.zone = none) (v : Int) :
    evaluate m v = ({ m with zone := some (rawZone m.contents none v), candidate := none }, none) := by
  simp [evaluate, hz]

section
variable {m : Monitor} {v : Int} {old : Zone}

/-- The raw zone is the accepted zone: the candidate is dropped. -/
theorem evaluate_of_same (hz : m.zone = some old) (hr : rawZone m.contents (some old) v = old) :
    evaluate m v = ({ m with candidate := none }, none) := by
  simp [evaluate, hz, hr]

/-- The count reaches the persistence: a crossing. -/
theorem evaluate_of_persistent {new : Zone} (hz : m.zone = some old) (hr : rawZone m.contents (some old) v = new)
    (hne : new ≠ old) (hn : runLength m.candidate new = persistCount m.contents.persist) :
    evaluate m v =
      ({ m with zone := some new, candidate := none, crossings := satInc m.crossings }, some (old, new)) := by
  simp [evaluate, hz, hr, hne, hn]

/-- The count falls short of the persistence: the candidate is started or counted. -/
theorem evaluate_of_not_persistent {new : Zone} (hz : m.zone = some old) (hr : rawZone m.contents (some old) v = new)
    (hne : new ≠ old) (hn : runLength m.candidate new ≠ persistCount m.contents.persist) :
    evaluate m v = ({ m with candidate := some (new, runLength m.candidate new) }, none) := by
  simp [evaluate, hz, hr, hne, hn]

end

/-! ### The statement -/

/-- Settles O46: the rows of R126, and the outcomes of R127 with the count that its two rules determine. -/
theorem monitorEvaluation : Obligations.MonitorEvaluation := by
  intro m v _
  refine ⟨rawZone_above _ v, rawZone_below _ v, fun z hz => rawZone_of_unknown_or_inside _ hz v,
    fun hz => evaluate_of_unknown hz v, fun old hz => ⟨fun hr => evaluate_of_same hz hr, fun new hr hne n hsame hother => ?_⟩⟩
  obtain rfl : runLength m.candidate new = n := runLength_eq hsame hother
  exact ⟨evaluate_of_persistent hz hr hne, evaluate_of_not_persistent hz hr hne⟩

end Sys2Proof.Machine
end

section
/-! The law of the ports (R106, R133, R139, R172, R175, R176), kept by each thing that a block does to a port: the arrival of a
notice, the taking of event and slot records, and an answer of at most 48 data bytes. -/

namespace Sys2Proof.Machine

/-! ### Event queues -/

theorem eventLaw_nil : EventLaw [] :=
  ⟨by simp, by simp, by simp⟩

/-- The records that stay after the oldest are taken. -/
theorem EventLaw.drop {q : List EventRecord} (h : EventLaw q) (n : Nat) : EventLaw (q.drop n) where
  ordinary := (((List.drop_sublist n q).filter _).length_le).trans h.ordinary
  overflowLast r hr := by
    rw [List.dropLast_drop_eq_drop_dropLast] at hr
    exact h.overflowLast r (List.mem_of_mem_drop hr)
  completions e := ((List.drop_sublist n q).countP_le).trans (h.completions e)

/-- Records changed in their counts and stamps, or replaced by records of the same kind and subject. -/
theorem EventLaw.map {q : List EventRecord} (h : EventLaw q) {f : EventRecord → EventRecord}
    (ho : ∀ r, (f r).isOverflow = r.isOverflow) (hc : ∀ e r, (f r).isCompletionOf e = r.isCompletionOf e) :
    EventLaw (q.map f) where
  ordinary := by
    rw [List.filter_map, List.length_map]
    simpa [Function.comp_def, ho] using h.ordinary
  overflowLast r hr := by
    rw [← List.map_dropLast] at hr
    obtain ⟨x, hx, rfl⟩ := List.mem_map.1 hr
    rw [ho]
    exact h.overflowLast x hx
  completions e := by
    rw [List.countP_map]
    simpa [Function.comp_def, hc] using h.completions e

/-- A record appended to a queue without OVERFLOW record. -/
theorem EventLaw.concat {q : List EventRecord} (h : EventLaw q) (hq : ∀ r ∈ q, r.isOverflow = false) {x : EventRecord}
    (hroom : x.isOverflow = false → q.length < 15)
    (hx : ∀ e, x.isCompletionOf e = true → ∀ r ∈ q, r.isCompletionOf e = false) : EventLaw (q ++ [x]) where
  ordinary := by
    rw [List.filter_append, List.length_append]
    have hf := List.length_filter_le (fun r => !r.isOverflow) q
    have hq' := h.ordinary
    cases hxo : x.isOverflow
    · have := hroom hxo
      simp only [List.filter_cons, hxo, Bool.not_false, if_true, List.filter_nil, List.length_singleton]
      omega
    · simpa [List.filter_cons, hxo] using hq'
  overflowLast r hr := by
    rw [List.dropLast_concat] at hr
    exact hq r hr
  completions e := by
    rw [List.countP_append, List.countP_singleton]
    cases hxe : x.isCompletionOf e
    · simpa using h.completions e
    · rw [List.countP_eq_zero.2 fun r hr => by simp [hx e hxe r hr]]
      simp

/-- A record arrives that folds into none. -/
theorem EventLaw.arrive {q : List EventRecord} (h : EventLaw q) (n : Notice) (now : Time)
    (hn : ∀ e, EventRecord.isCompletionOf e ⟨n, 1, now⟩ = true → ∀ r ∈ q, r.isCompletionOf e = false) :
    EventLaw (arrive q n now) := by
  unfold Machine.arrive
  split
  · exact h.map (fun r => by split <;> rfl) (fun e r => by split <;> rfl)
  · rename_i ho
    have hq : ∀ r ∈ q, r.isOverflow = false := by simpa using ho
    split
    · exact h.concat hq (fun hx => absurd hx (by simp [EventRecord.isOverflow, Notice.kind]))
        (fun e hx => absurd hx (by simp [EventRecord.isCompletionOf]))
    · exact h.concat hq (fun _ => by omega) hn

theorem isCompletionOf_iff {r : EventRecord} {e : EntryId} :
    r.isCompletionOf e = true ↔ ∃ i sequence v, r.notice = .completion e i sequence v := by
  obtain ⟨n, count, stamp⟩ := r
  cases n <;> simp [EventRecord.isCompletionOf]

/-- A COMPLETION notice arrives. -/
theorem EventLaw.arriveCompletion {q : List EventRecord} (h : EventLaw q) (e : EntryId) (i : SlotId)
    (sequence v : BitVec 16) (now : Time) :
    EventLaw (arriveCompletion q e (.completion e i sequence v) now) := by
  unfold Machine.arriveCompletion
  split
  · refine h.map (fun r => ?_) (fun e' r => ?_)
    · split
      · rename_i hr
        obtain ⟨i', s', v', hr⟩ := isCompletionOf_iff.1 hr
        simp [EventRecord.isOverflow, hr, Notice.kind]
      · rfl
    · split
      · rename_i hr
        obtain ⟨i', s', v', hr⟩ := isCompletionOf_iff.1 hr
        simp [EventRecord.isCompletionOf, hr]
      · rfl
  · rename_i hno
    refine h.arrive _ now fun e' he' r hr => ?_
    obtain ⟨_, _, _, heq⟩ := isCompletionOf_iff.1 he'
    cases heq
    simpa using fun hc => hno (List.any_eq_true.2 ⟨r, hr, hc⟩)

/-- A notice routed to a port joins its queue. -/
theorem EventLaw.enqueue {q : List EventRecord} (h : EventLaw q) (n : Notice) (now : Time) :
    EventLaw (enqueue q n now) := by
  cases n with
  | completion e i sequence v => exact h.arriveCompletion e i sequence v now
  | _ => exact h.arrive _ now fun e he => absurd he (by simp [EventRecord.isCompletionOf])

/-! ### Ports -/

/-- A port is told of a notice. -/
theorem PortLaw.receive {x : PortState} (h : PortLaw x) (b : Bool) (n : Notice) (now : Time) :
    PortLaw (x.receive b n now) := by
  unfold PortState.receive
  split
  · rename_i hb
    have ha : x.attached = true := by simp_all
    exact ⟨fun hd => absurd (ha.symm.trans hd) (by simp), h.deadline, h.events.enqueue n now, h.snapshot, h.slot, h.gap⟩
  · exact h

/-- A port whose queue and buffer are kept, at a frame's end. -/
theorem PortLaw.frameEnd {x : PortState} (h : PortLaw x) : PortLaw { x with frame := .idle, gap := 0 } :=
  ⟨h.detached, h.deadline, h.events, h.snapshot, h.slot, Nat.zero_le _⟩

theorem PortLaw.frame {x : PortState} (h : PortLaw x) (f : FrameLine) : PortLaw { x with frame := f } :=
  ⟨h.detached, h.deadline, h.events, h.snapshot, h.slot, h.gap⟩

/-- A record is placed in the slot. -/
theorem PortLaw.place {x : PortState} (h : PortLaw x) {r : Response} (hr : r.data.length ≤ 48) :
    PortLaw { x with slot := r } :=
  ⟨h.detached, h.deadline, h.events, h.snapshot, hr, h.gap⟩

/-- The session timer restarts. -/
theorem PortLaw.restarted {x : PortState} (h : PortLaw x) (now : Time) :
    PortLaw { x with deadline := x.restarted now } := by
  refine ⟨fun hd => ?_, fun ha => ?_, h.events, h.snapshot, h.slot, h.gap⟩
  · have hx := h.detached hd
    have hr : x.restarted now = x.deadline := if_neg fun hc => absurd (hd.symm.trans hc.1) (by simp)
    exact ⟨hx.1, hr.trans hx.2.1, hx.2.2⟩
  · have hx : x.deadline = none ↔ x.timeout = 0 := h.deadline ha
    show x.restarted now = none ↔ x.timeout = 0
    unfold PortState.restarted
    split
    · rename_i hc
      simpa using hc.2
    · exact hx

/-- A subscription set replaces that of an attached port. -/
theorem PortLaw.subscribe {x : PortState} (h : PortLaw x) (ha : x.attached = true) (set : Subscriptions) :
    PortLaw { x with subs := set } :=
  ⟨fun hd => absurd (ha.symm.trans hd) (by simp), h.deadline, h.events, h.snapshot, h.slot, h.gap⟩

/-- The oldest records are taken from an event queue. -/
theorem PortLaw.takeEvents {x : PortState} (h : PortLaw x) (ha : x.attached = true) (n : Nat) :
    PortLaw { x with events := x.events.drop n } :=
  ⟨fun hd => absurd (ha.symm.trans hd) (by simp), h.deadline, h.events.drop n, h.snapshot, h.slot, h.gap⟩

/-- An attached port's snapshot buffer is replaced. -/
theorem PortLaw.snapshots {x : PortState} (h : PortLaw x) (ha : x.attached = true) {l : List (SlotId × SlotRecord)}
    (hl : l.length ≤ 12) (hc : consecutive l) (n : BitVec 8) : PortLaw { x with snapshot := l, abandons := n } :=
  ⟨fun hd => absurd (ha.symm.trans hd) (by simp), h.deadline, h.events, ⟨hl, hc⟩, h.slot, h.gap⟩

/-- A session ends. -/
theorem PortLaw.leave {x : PortState} (h : PortLaw x) : PortLaw x.leave :=
  ⟨fun _ => ⟨rfl, rfl, rfl, rfl, rfl, rfl⟩, fun ha => absurd ha Bool.false_ne_true, eventLaw_nil,
    ⟨Nat.zero_le _, trivial⟩, h.slot, h.gap⟩

/-- A session opens, with a deadline exactly when it has a timeout. -/
theorem PortLaw.opened {x : PortState} (h : PortLaw x) (number timeout : BitVec 8) (subs : Subscriptions) (d : Time) :
    PortLaw { x with
      attached := true, number := number, timeout := timeout, subs := subs, events := [], snapshot := [], abandons := 0,
      deadline := if timeout = 0 then none else some d } := by
  refine ⟨fun hd => absurd hd (by simp), fun _ => ?_, eventLaw_nil, ⟨Nat.zero_le _, trivial⟩, h.slot, h.gap⟩
  by_cases ht : timeout = 0 <;> simp [ht]

/-- A port at its reset state but for its frame. -/
theorem portLaw_reset (cause : ResetCause) (f : FrameLine) : PortLaw { PortState.reset cause with frame := f } :=
  ⟨fun _ => ⟨rfl, rfl, rfl, rfl, rfl, rfl⟩, fun ha => absurd ha Bool.false_ne_true, eventLaw_nil,
    ⟨Nat.zero_le _, trivial⟩, Nat.le_of_ble_eq_true rfl, Nat.le_refl 160⟩

/-! ### Snapshot buffers -/

theorem consecutive_tail {a : SlotId × SlotRecord} {l : List (SlotId × SlotRecord)} (h : consecutive (a :: l)) :
    consecutive l := by
  cases l with
  | nil => trivial
  | cons b l => exact h.2

theorem consecutive_drop {l : List (SlotId × SlotRecord)} (h : consecutive l) (n : Nat) : consecutive (l.drop n) := by
  induction n generalizing l with
  | zero => exact h
  | succ n ih =>
    cases l with
    | nil => trivial
    | cons a l => exact ih (consecutive_tail h)

/-- Slots whose indices count up from a number are in a row. -/
theorem consecutive_of_indices {l : List (SlotId × SlotRecord)} {first count : Nat}
    (h : l.map (·.1.val) = (List.range count).map (first + ·)) : consecutive l := by
  induction l generalizing first count with
  | nil => trivial
  | cons a l ih =>
    cases count with
    | zero => simp at h
    | succ count =>
      have hr : (List.range (count + 1)).map (first + ·) = first :: (List.range count).map (first + 1 + ·) := by
        rw [List.range_succ_eq_map, List.map_cons, List.map_map]
        exact congrArg _ (List.map_congr_left fun i _ => by simp only [Function.comp]; omega)
      rw [hr, List.map_cons, List.cons.injEq] at h
      cases l with
      | nil => trivial
      | cons b l =>
        refine ⟨?_, ih h.2⟩
        cases count with
        | zero => simp at h
        | succ count =>
          have hb := h.2
          rw [List.range_succ_eq_map, List.map_cons, List.map_cons, List.cons.injEq] at hb
          omega

theorem length_capture (s : State) {first count : Nat} (h : first + count ≤ 64) :
    (s.capture first count).length = count := by
  have := congrArg List.length (capture_indices s h)
  simpa using this

/-! ### The lengths of the records of Chapter 11 -/

@[simp] theorem length_be16 (x : BitVec 16) : (be16 x).length = 2 := rfl

@[simp] theorem length_be32 (x : BitVec 32) : (be32 x).length = 4 := rfl

@[simp] theorem length_contentsBytes (c : EntryContents) : (contentsBytes c).length = 10 := rfl

@[simp] theorem length_monitorContentsBytes (c : MonitorContents) : (monitorContentsBytes c).length = 11 := by
  simp [monitorContentsBytes, rawMonitorBytes]

@[simp] theorem length_entryRecord (x : Entry) : (entryRecord x).length = 16 := by
  simp [entryRecord]

@[simp] theorem length_monitorRecord (x : Monitor) : (monitorRecord x).length = 19 := by
  simp [monitorRecord]

@[simp] theorem length_slotBytes (r : SlotRecord) : (slotBytes r).length = 11 := by
  simp [slotBytes]

@[simp] theorem length_eventBytes (r : EventRecord) : (eventBytes r).length = 11 := by
  simp [eventBytes]

@[simp] theorem length_timerBytes (t : Timer) : (timerBytes t).length = 7 := by
  unfold timerBytes
  rcases t.run with _ | next <;> simp

@[simp] theorem length_requestBytes (x : SwitchPhase) : (requestBytes x).length = 2 := by
  cases x <;> rfl

@[simp] theorem length_commonRecord (s : State) : (commonRecord s).length = 42 := by
  simp [commonRecord]

@[simp] theorem length_statusRecord (s : State) (p : Port) : (statusRecord s p).length = 23 := by
  simp [statusRecord]

@[simp] theorem length_proposalRecord (pr : Proposal) (now : Time) :
    (proposalRecord pr now).length = 13 + (subjectArgs pr.subject).length := by
  simp [proposalRecord]
  omega

theorem length_subjectArgs_le (x : Subject) : (subjectArgs x).length ≤ 12 := by
  cases x <;> simp [subjectArgs]

/-- Up to four records of 11 bytes. -/
theorem length_flatMap_take_four {α : Type} (l : List α) {f : α → List Byte} (hf : ∀ x, (f x).length = 11) :
    ((l.take 4).flatMap f).length ≤ 44 := by
  have h : ((l.take 4).map fun x => (f x).length).sum = 11 * (l.take 4).length := by
    simp [hf, Nat.mul_comm]
  rw [List.length_flatMap, h, List.length_take]
  omega

theorem length_takenData_le (events : List EventRecord) : (takenData events).length ≤ 48 := by
  have := length_flatMap_take_four events length_eventBytes
  simp only [takenData, List.length_append, List.length_cons, List.length_nil]
  omega

theorem length_chunkAnswer_le (buffer : List (SlotId × SlotRecord)) : (chunkAnswer buffer).data.length ≤ 48 := by
  have := length_flatMap_take_four buffer (f := fun x => slotBytes x.2) (fun x => length_slotBytes x.2)
  unfold chunkAnswer chunkData
  simp only
  split
  · simp
  · simp only [List.length_append, List.length_cons, List.length_nil]
    omega

end Sys2Proof.Machine
end

section
/-! What a command can do, said once: each command but a device reset is a chain of the acts below, each named with the checks
that let it come about. The laws of the device are then kept act by act. -/

namespace Sys2Proof.Machine

/-! ### Acts -/

/-- One thing that the Trigger Unit, the Dispatch Queue, the converter or the Sampling Clock does. -/
inductive Inner (s : State) : State → Prop
  | request (p : Port) (e : EntryId) : Inner s (s.trigger e (.port p)).1.consult
  | cancel (e : EntryId) : Inner s (s.dropTicket e)
  | setTimer (k : TimerId) (x : Timer) : Inner s (s.setTimer k x)
  | acceptLevel (k : PinId) (l : Level) : Inner s (s.setPin k ((s.pin k).accept l))
  | fanOut (tr : Trigger) (o : Origin) (ho : o.port? = none) : Inner s (s.fanOut tr o)
  | settled (c : Copy) (hc : s.converter = .settling c) :
      Inner s { s with converter := .sampling c 0 0 false, work := workLeft s.clock.active samplePeriods }
  | sampled (c : Copy) (taken : Nat) (sum : Int) (full full' : Bool) (x : Analog)
      (hc : s.converter = .sampling c taken sum full) (hn : taken + 1 < avgCount c.avg) :
      Inner s { s with
        converter := .sampling c (taken + 1) (sum + sampleCode s.calibration c x) full'
        work := workLeft s.clock.active samplePeriods }
  | completed (c : Copy) (taken : Nat) (sum sum' : Int) (full full' : Bool)
      (hc : s.converter = .sampling c taken sum full) : Inner s (s.complete c sum' full')
  | calibrated (found : Calibration) (hc : s.converter = .calibrating) :
      Inner s ({ s with calibration := some found } : State).workEnds
  | locked (r : ClockSetting) (hp : s.clock.phase = .acquiring r) (hl : s.clock.loop = .starting) :
      Inner s (({ s with clock := { s.clock with loop := .locked, deadline := none } } : State).switchDone r)
  | qualified (r : ClockSetting) (edges : Nat) (hp : s.clock.phase = .acquiring r) (hm : r.mode = .external) :
      Inner s (s.qualify r edges)
  | timedOut (r : ClockSetting) (hp : s.clock.phase = .acquiring r) : Inner s (s.acquisitionFails r)

/-- One thing that a block does while no reset is held, for a command of port `who`, or of no port. -/
inductive Act (who : Option Port) (s : State) : State → Prop
  /-- The port's own record changes, its session and the law of the ports kept. -/
  | port (p : Port) (y : PortState) (hw : who = some p) (hatt : y.attached = (s.port p).attached)
      (hlaw : PortLaw (s.port p) → PortLaw y) : Act who s (s.setPort p y)
  | attach (p : Port) (timeout : Byte) (subs : Subscriptions) (n : BitVec 8) (hw : who = some p)
      (hd : (s.port p).attached = false) :
      Act who s ((s.openSession p timeout subs).tellPeers p .attached n)
  | detach (p : Port) (detail : PeerDetail) (hw : who = some p) (ha : (s.port p).attached = true) :
      Act who s (s.endSession p detail)
  | claimEntry (p : Port) (e : EntryId) (ha : (s.port p).attached = true) (hf : (s.entry e).state = .free)
      (hq : s.entryCount p < 16) :
      Act who s (s.setEntry e ((s.entry e).install (.ownedBy p) (s.entry e).contents))
  | writeEntry (p : Port) (e : EntryId) (raw : RawEntry) (c : EntryContents) (ho : (s.entry e).state = .ownedBy p)
      (hc : s.checkContents (.own p) e raw = .ok c) :
      Act who s ((s.discardTicket e (some .edited)).setEntry e ((s.entry e).rewrite c))
  | releaseEntry (p : Port) (e : EntryId) (ho : (s.entry e).state = .ownedBy p) : Act who s (s.leaveScope e true)
  | claimMonitor (p : Port) (m : MonId) (ha : (s.port p).attached = true) (hf : (s.monitor m).state = .free)
      (hq : s.monitorCount p < 6) :
      Act who s (s.setMonitor m ((s.monitor m).install (.ownedBy p) (s.monitor m).contents 0))
  | writeMonitor (p : Port) (m : MonId) (raw : RawMonitor) (c : MonitorContents)
      (ho : (s.monitor m).state = .ownedBy p) (hc : s.checkMonitor (.own p) raw = some c) :
      Act who s (s.setMonitor m ((s.monitor m).install (.ownedBy p) c (s.monitor m).crossings))
  | releaseMonitor (p : Port) (m : MonId) (ho : (s.monitor m).state = .ownedBy p) :
      Act who s (s.setMonitor m (s.monitor m).release)
  | propose (p : Port) (raw : RawSubject) (x : Subject) (ha : (s.port p).attached = true) (hn : s.proposal = none)
      (hb : s.switchBusy raw = false) (hr : s.readSubject raw = .ok x) : Act who s (s.proposed p x).1
  | vote (p : Port) (pr : Proposal) (accept : Bool) (hp : s.proposal = some pr) (hr : pr.required.get p = true) :
      Act who s (s.counted pr p accept).1
  | close (pr : Proposal) (o : ProposalOutcome) (hp : s.proposal = some pr) (ho : o = .withdrawn ∨ o = .expired) :
      Act who s (s.close pr o)
  | inner {t : State} (h : Inner s t) : Act who s t

/-- A chain of acts. -/
abbrev Acts (who : Option Port) : State → State → Prop := Relation.ReflTransGen (Act who)

theorem Act.acts {who : Option Port} {s t : State} (h : Act who s t) : Acts who s t := .single h

/-! ### The blocks that answer a frame -/

/-- The block answers an attached port by a chain of acts, with at most 48 data bytes. -/
def Answers (p : Port) (block : State → State × Answer) : Prop :=
  ∀ s, (s.port p).attached = true → Acts (some p) s (block s).1 ∧ (block s).2.data.length ≤ 48

section
variable {p : Port} {s : State}

theorem acts_unchanged {a : Answer} (ha : a.data.length ≤ 48) :
    Acts (some p) s (s, a).1 ∧ (s, a).2.data.length ≤ 48 := ⟨.refl, ha⟩

theorem acts_bare (st : Status) :
    Acts (some p) s (s, Answer.bare st).1 ∧ (s, Answer.bare st).2.data.length ≤ 48 :=
  acts_unchanged (Nat.zero_le _)

theorem acts_single {t : State} {a : Answer} (h : Act (some p) s t) (ha : a.data.length ≤ 48) :
    Acts (some p) s (t, a).1 ∧ (t, a).2.data.length ≤ 48 := ⟨h.acts, ha⟩

end

theorem answers_detach (p : Port) : Answers p (detachBlock p) :=
  fun _ ha => acts_single (.detach p .detached rfl ha) (Nat.zero_le _)

theorem answers_subscribe (p : Port) (subs : Byte) : Answers p (subscribeBlock p subs) := by
  intro s ha
  unfold subscribeBlock
  split
  · exact acts_bare _
  · exact acts_single (.port p _ rfl rfl fun h => h.subscribe ha _) (by decide +revert)

theorem answers_readStatus (p : Port) (s : State) :
    Acts (some p) s (readStatusBlock p s).1 ∧ (readStatusBlock p s).2.data.length ≤ 48 :=
  acts_unchanged (by simp)

theorem answers_restate (p : Port) : Answers p (restateBlock p) :=
  fun _ _ => acts_unchanged (by simp)

theorem answers_claimEntry (p : Port) (e : Byte) : Answers p (claimEntryBlock p e) := by
  intro s ha
  unfold claimEntryBlock
  split
  · exact acts_bare _
  · split
    · exact acts_bare _
    · split
      · exact acts_bare _
      · rename_i e _ hf hq
        exact acts_single (.claimEntry p e ha (not_not.1 hf) (not_le.1 hq)) (by simp)

theorem answers_writeEntry (p : Port) (e : Byte) (raw : RawEntry) : Answers p (writeEntryBlock p e raw) := by
  intro s _
  unfold writeEntryBlock
  split
  · exact acts_bare _
  · split
    · exact acts_bare _
    · rename_i e _ ho
      split
      · exact acts_bare _
      · rename_i c hc
        exact acts_single (.writeEntry p e raw c (not_not.1 ho) hc) (by simp)

theorem answers_readEntry (p : Port) (e : Byte) : Answers p (readEntryBlock e) := by
  intro s _
  unfold readEntryBlock
  split
  · exact acts_bare _
  · exact acts_unchanged (by simp)

theorem answers_releaseEntry (p : Port) (e : Byte) : Answers p (releaseEntryBlock p e) := by
  intro s _
  unfold releaseEntryBlock
  split
  · exact acts_bare _
  · split
    · exact acts_bare _
    · rename_i e _ ho
      exact acts_single (.releaseEntry p e (not_not.1 ho)) (by simp)

theorem length_requestAnswer_le (s : State) (p : Port) (x : Admission) : (requestAnswer s p x).data.length ≤ 48 := by
  cases x <;> simp [requestAnswer, Answer.bare]

theorem answers_request (p : Port) (e : Byte) : Answers p (requestBlock p e) := by
  intro s _
  have hr : ∀ e, Acts (some p) s (requestTrigger p e s).1 ∧ (requestTrigger p e s).2.data.length ≤ 48 :=
    fun e => acts_single (.inner (.request p e)) (length_requestAnswer_le _ p _)
  unfold requestBlock
  split
  · exact acts_bare _
  · split
    · exact acts_bare _
    · exact acts_bare _
    · exact hr _
    · split
      · exact hr _
      · exact acts_bare _

theorem answers_cancel (p : Port) (e : Byte) : Answers p (cancelBlock p e) := by
  intro s _
  unfold cancelBlock
  split
  · exact acts_bare _
  · split
    · exact acts_bare _
    · split
      · exact acts_bare _
      · split
        · exact acts_bare _
        · exact acts_single (.inner (.cancel _)) (by simp)

theorem answers_readSlots (p : Port) (first count : Byte) : Answers p (readSlotsBlock p first count) := by
  intro s ha
  unfold readSlotsBlock
  split
  · rename_i h
    have hle : first.toNat + count.toNat ≤ 64 := by omega
    have hlen := length_capture s hle
    refine acts_single (.port p _ rfl rfl fun hl => hl.snapshots ha ?_ ?_ _) (length_chunkAnswer_le _)
    · rw [List.length_drop, hlen]
      omega
    · exact consecutive_drop (consecutive_of_indices (capture_indices s hle)) 4
  · exact acts_bare _

theorem answers_continue (p : Port) : Answers p (continueBlock p) := by
  intro s ha
  unfold continueBlock
  split
  · exact acts_bare _
  · rename_i r rest hs
    refine acts_single (.port p _ rfl rfl fun hl => hl.snapshots ha ?_ ?_ _) (length_chunkAnswer_le _)
    · have := hs ▸ hl.snapshot.1
      rw [List.length_drop]
      omega
    · exact consecutive_drop (hs ▸ hl.snapshot.2) 4

theorem answers_claimMonitor (p : Port) (m : Byte) : Answers p (claimMonitorBlock p m) := by
  intro s ha
  unfold claimMonitorBlock
  split
  · exact acts_bare _
  · split
    · exact acts_bare _
    · split
      · exact acts_bare _
      · rename_i m _ hf hq
        exact acts_single (.claimMonitor p m ha (not_not.1 hf) (not_le.1 hq)) (by simp)

theorem answers_writeMonitor (p : Port) (m : Byte) (raw : RawMonitor) : Answers p (writeMonitorBlock p m raw) := by
  intro s _
  unfold writeMonitorBlock
  split
  · exact acts_bare _
  · split
    · exact acts_bare _
    · rename_i m _ ho
      split
      · exact acts_bare _
      · rename_i c hc
        exact acts_single (.writeMonitor p m raw c (not_not.1 ho) hc) (by simp)

theorem answers_readMonitor (p : Port) (m : Byte) : Answers p (readMonitorBlock m) := by
  intro s _
  unfold readMonitorBlock
  split
  · exact acts_bare _
  · exact acts_unchanged (by simp)

theorem answers_releaseMonitor (p : Port) (m : Byte) : Answers p (releaseMonitorBlock p m) := by
  intro s _
  unfold releaseMonitorBlock
  split
  · exact acts_bare _
  · split
    · exact acts_bare _
    · rename_i m _ ho
      exact acts_single (.releaseMonitor p m (not_not.1 ho)) (by simp)

theorem answers_takeEvents (p : Port) : Answers p (takeEventsBlock p) :=
  fun _ ha => acts_single (.port p _ rfl rfl fun h => h.takeEvents ha 4) (length_takenData_le _)

theorem length_proposed_le (s : State) (p : Port) (x : Subject) : (s.proposed p x).2.data.length ≤ 48 := by
  unfold State.proposed
  split <;> simp [proposeData]

theorem answers_propose (p : Port) (raw : RawSubject) : Answers p (proposeBlock p raw) := by
  intro s ha
  unfold proposeBlock
  split
  · exact acts_unchanged (by simp)
  · rename_i hn
    split
    · exact acts_bare _
    · rename_i hb
      split
      · exact acts_bare _
      · rename_i x hr
        exact ⟨(Act.propose p raw x ha hn (Bool.eq_false_iff.2 hb) hr).acts, length_proposed_le s p x⟩

theorem length_counted_le (s : State) (pr : Proposal) (p : Port) (accept : Bool) :
    (s.counted pr p accept).2.data.length ≤ 48 := by
  unfold State.counted
  split
  · split <;> simp [voteData]
  · simp [voteData]

theorem answers_vote (p : Port) (id choice : Byte) : Answers p (voteBlock p id choice) := by
  intro s _
  unfold voteBlock
  split
  · exact acts_bare _
  · exact acts_bare _
  · rename_i accept pr _ hp
    split
    · exact acts_bare _
    · split
      · exact acts_bare _
      · rename_i hr
        split
        · exact acts_bare _
        · exact ⟨(Act.vote p pr accept hp (Bool.not_eq_false _ ▸ hr)).acts, length_counted_le s pr p accept⟩

theorem answers_withdraw (p : Port) (id : Byte) : Answers p (withdrawBlock p id) := by
  intro s _
  unfold withdrawBlock
  split
  · exact acts_bare _
  · rename_i pr hp
    split
    · exact acts_bare _
    · split
      · exact acts_bare _
      · exact acts_single (.close pr .withdrawn hp (.inl rfl)) (by simp)

theorem answers_readProposal (p : Port) : Answers p readProposalBlock := by
  intro s _
  unfold readProposalBlock
  split
  · exact acts_bare _
  · rename_i pr _
    refine acts_unchanged ?_
    have := length_subjectArgs_le pr.subject
    rw [length_proposalRecord]
    omega

theorem answers_readCommon (p : Port) : Answers p readCommonBlock :=
  fun _ _ => acts_unchanged (by simp)

theorem answers_attach (p : Port) (timeout subs : Byte) (s : State) :
    Acts (some p) s (attachBlock p timeout subs s).1 ∧ (attachBlock p timeout subs s).2.data.length ≤ 48 := by
  unfold attachBlock
  split
  · exact acts_unchanged (by simp)
  · rename_i hd
    split
    · exact acts_bare _
    · exact acts_single (.attach p timeout _ _ rfl (Bool.eq_false_iff.2 hd)) (by simp)

/-! ### Commands -/

/-- What a command other than a device reset does, for a command of port `who`, or of no port. -/
inductive Change (who : Option Port) (s : State) : State → Prop
  | same : Change who s s
  /-- A frame ends unjudged, or begins. -/
  | frame (p : Port) (f : FrameLine) (hw : who = some p) : Change who s (s.setPort p { s.port p with frame := f })
  | release (hh : s.resetHeld = true) : Change who s (resetReleaseEvent s)
  | acts {t : State} (hh : s.resetHeld = false) (h : Acts who s t) : Change who s t

theorem change_answer (s : State) (p : Port) (tag code : Byte) {block : State → State × Answer}
    (hb : ∀ u, Acts (some p) u (block u).1 ∧ (block u).2.data.length ≤ 48) :
    Change (some p) s (s.answer p tag code block) := by
  by_cases hj : Judged s p
  · rw [answer_judged hj]
    refine .acts hj.1 ?_
    have h1 : Act (some p) s (s.endFrame p) := .port p _ rfl rfl PortLaw.frameEnd
    obtain ⟨h2, hlen⟩ := hb (s.endFrame p)
    refine (h2.head h1).tail (.port p _ rfl rfl fun h => ?_)
    exact (h.restarted _).place (r := ⟨tag, code, _, _⟩) hlen
  · rw [answer_not_judged hj]
    exact .frame p .idle rfl

theorem change_answerAttached (s : State) (p : Port) (tag code : Byte) {block : State → State × Answer}
    (hb : Answers p block) : Change (some p) s (s.answerAttached p tag code block) := by
  refine change_answer s p tag code fun u => ?_
  unfold ifAttached
  split
  · exact hb u (by assumption)
  · exact acts_bare _

/-- An event of no reset. -/
theorem change_unlessHeld (who : Option Port) (s : State) {f : State → State}
    (hf : s.resetHeld = false → Acts who s (f s)) : Change who s (s.unlessHeld f) := by
  cases hh : s.resetHeld
  · rw [unlessHeld_released hh]
    exact .acts hh (hf hh)
  · rw [unlessHeld_held hh]
    exact .same

theorem change_fetch (s : State) (p : Port) : Change (some p) s (s.fetch p) := by
  unfold State.fetch
  by_cases hj : Judged s p
  · rw [if_pos (judges_of_judged hj), restart_eq]
    have h1 : Act (some p) s (s.endFrame p) := .port p _ rfl rfl PortLaw.frameEnd
    exact .acts hj.1 (.tail h1.acts (.port p _ rfl rfl fun h => h.restarted _))
  · rw [judges_of_not_judged hj]
    exact .frame p .idle rfl

theorem change_frameError (s : State) (p : Port) (f : RawFrame) :
    Change (some p) s (if s.judges p then s.judgeError p f else s.dropFrame p) := by
  by_cases hj : Judged s p
  · rw [if_pos (judges_of_judged hj)]
    unfold State.judgeError
    split
    · have h1 : Act (some p) s (s.endFrame p) := .port p _ rfl rfl PortLaw.frameEnd
      exact .acts hj.1 (.tail h1.acts (.port p _ rfl rfl fun h => h.place (Nat.le_of_ble_eq_true rfl)))
    · exact .same
  · rw [judges_of_not_judged hj]
    exact .frame p .idle rfl

theorem change_frameStart (s : State) (p : Port) : Change (some p) s (frameStartEvent p s) := by
  unfold frameStartEvent
  split
  · exact .frame p _ rfl
  · exact .same
  · exact .same

theorem acts_sessionExpiry (s : State) (p : Port) : Acts (some p) s (sessionExpiryEvent p s) := by
  unfold sessionExpiryEvent
  split
  · rename_i h
    exact .tail (.single (.detach p .expired rfl h.1)) (.port p _ rfl rfl fun h => h.place (Nat.le_of_ble_eq_true rfl))
  · exact .refl

theorem acts_pinInitialLevel (who : Option Port) (s : State) (k : PinId) (l : Level) :
    Acts who s (pinInitialLevelEvent k l s) := by
  unfold pinInitialLevelEvent
  split
  · split
    · exact .single (.inner (.acceptLevel k l))
    · exact .refl
  · exact .refl

theorem acts_timerExpiry (who : Option Port) (s : State) (k : TimerId) : Acts who s (timerExpiryEvent k s) := by
  unfold timerExpiryEvent
  split
  · split
    · exact .tail (.single (.inner (.setTimer k _))) (.inner (.fanOut (.timer k) (.timer k) rfl))
    · exact .refl
  · exact .refl

theorem acts_pinEdge (who : Option Port) (s : State) (k : PinId) (l : Level) : Acts who s (pinEdgeEvent k l s) := by
  unfold pinEdgeEvent
  split
  · exact .refl
  · split
    · exact .refl
    · simp only
      split
      · exact .tail (.single (.inner (.acceptLevel k l))) (.inner (.fanOut (.pin k) (.pin k) rfl))
      · exact .single (.inner (.acceptLevel k l))

theorem acts_endOfSettling (who : Option Port) (s : State) : Acts who s (endOfSettlingEvent s) := by
  unfold endOfSettlingEvent
  split
  · split
    · exact .single (.inner (.settled _ (by assumption)))
    · exact .refl
  all_goals exact .refl

theorem acts_endOfSample (who : Option Port) (s : State) (x : Analog) : Acts who s (endOfSampleEvent x s) := by
  unfold endOfSampleEvent
  split
  · rename_i hc
    split
    · rename_i h
      exact .single (.inner (.sampled _ _ _ _ _ x hc h.2.2))
    · exact .refl
  all_goals exact .refl

theorem acts_completion (who : Option Port) (s : State) (x : Analog) : Acts who s (completionEvent x s) := by
  unfold completionEvent
  split
  · rename_i hc
    split
    · exact .single (.inner (.completed _ _ _ _ _ _ hc))
    · exact .refl
  all_goals exact .refl

theorem acts_calibrationEnd (who : Option Port) (s : State) (found : Calibration) :
    Acts who s (calibrationEndEvent found s) := by
  unfold calibrationEndEvent
  split
  · split
    · exact .single (.inner (.calibrated found (by assumption)))
    · exact .refl
  all_goals exact .refl

theorem acts_lockReport (who : Option Port) (s : State) : Acts who s (lockReportEvent s) := by
  unfold lockReportEvent
  split
  · exact .single (.inner (.locked _ (by assumption) (by assumption)))
  all_goals exact .refl

theorem acts_qualification (who : Option Port) (s : State) (edges : Nat) : Acts who s (qualificationEvent edges s) := by
  unfold qualificationEvent
  split
  · split
    · rename_i h
      exact .single (.inner (.qualified _ edges (by assumption) h.1))
    · exact .refl
  all_goals exact .refl

theorem acts_acquisitionDeadline (who : Option Port) (s : State) : Acts who s (acquisitionDeadlineEvent s) := by
  unfold acquisitionDeadlineEvent
  split
  · split
    · exact .single (.inner (.timedOut _ (by assumption)))
    · exact .refl
  all_goals exact .refl

theorem acts_proposalExpiry (who : Option Port) (s : State) : Acts who s (proposalExpiryEvent s) := by
  unfold proposalExpiryEvent
  split
  · exact .refl
  · split
    · exact .single (.close _ .expired (by assumption) (.inr rfl))
    · exact .refl

/-- Every command but a device reset is one of the changes above. -/
theorem exec_change {c : Instr} {s t : State} (h : exec c s = .next t) (hr : isDeviceReset c = false) :
    Change (portOf c) s t := by
  cases c with
  | deviceReset cause => cases hr
  | fetch p tag => cases h; exact change_fetch s p
  | attach p tag timeout subs => cases h; exact change_answer s p _ _ (answers_attach p timeout subs)
  | detach p tag => cases h; exact change_answerAttached s p _ _ (answers_detach p)
  | subscribe p tag subs => cases h; exact change_answerAttached s p _ _ (answers_subscribe p subs)
  | readStatus p tag => cases h; exact change_answer s p _ _ (answers_readStatus p)
  | restate p tag => cases h; exact change_answerAttached s p _ _ (answers_restate p)
  | claimEntry p tag e => cases h; exact change_answerAttached s p _ _ (answers_claimEntry p e)
  | writeEntry p tag e c => cases h; exact change_answerAttached s p _ _ (answers_writeEntry p e c)
  | readEntry p tag e => cases h; exact change_answerAttached s p _ _ (answers_readEntry p e)
  | releaseEntry p tag e => cases h; exact change_answerAttached s p _ _ (answers_releaseEntry p e)
  | request p tag e => cases h; exact change_answerAttached s p _ _ (answers_request p e)
  | cancel p tag e => cases h; exact change_answerAttached s p _ _ (answers_cancel p e)
  | readSlots p tag first count => cases h; exact change_answerAttached s p _ _ (answers_readSlots p first count)
  | continueSlots p tag => cases h; exact change_answerAttached s p _ _ (answers_continue p)
  | claimMonitor p tag m => cases h; exact change_answerAttached s p _ _ (answers_claimMonitor p m)
  | writeMonitor p tag m c => cases h; exact change_answerAttached s p _ _ (answers_writeMonitor p m c)
  | readMonitor p tag m => cases h; exact change_answerAttached s p _ _ (answers_readMonitor p m)
  | releaseMonitor p tag m => cases h; exact change_answerAttached s p _ _ (answers_releaseMonitor p m)
  | takeEvents p tag => cases h; exact change_answerAttached s p _ _ (answers_takeEvents p)
  | propose p tag x => cases h; exact change_answerAttached s p _ _ (answers_propose p x)
  | vote p tag id choice => cases h; exact change_answerAttached s p _ _ (answers_vote p id choice)
  | withdraw p tag id => cases h; exact change_answerAttached s p _ _ (answers_withdraw p id)
  | readProposal p tag => cases h; exact change_answerAttached s p _ _ (answers_readProposal p)
  | readCommon p tag => cases h; exact change_answerAttached s p _ _ (answers_readCommon p)
  | frameError p f => cases h; exact change_frameError s p f
  | frameStart p => cases h; exact change_frameStart s p
  | sessionExpiry p => cases h; exact change_unlessHeld _ s fun _ => acts_sessionExpiry s p
  | resetRelease =>
    cases h
    cases hh : s.resetHeld
    · rw [resetReleaseEvent, hh]
      exact .same
    · exact .release hh
  | pinInitialLevel k l => cases h; exact change_unlessHeld _ s fun _ => acts_pinInitialLevel _ s k l
  | timerExpiry k => cases h; exact change_unlessHeld _ s fun _ => acts_timerExpiry _ s k
  | pinEdge k l => cases h; exact change_unlessHeld _ s fun _ => acts_pinEdge _ s k l
  | endOfSettling => cases h; exact change_unlessHeld _ s fun _ => acts_endOfSettling _ s
  | endOfSample x => cases h; exact change_unlessHeld _ s fun _ => acts_endOfSample _ s x
  | completion x => cases h; exact change_unlessHeld _ s fun _ => acts_completion _ s x
  | calibrationEnd found => cases h; exact change_unlessHeld _ s fun _ => acts_calibrationEnd _ s found
  | lockReport => cases h; exact change_unlessHeld _ s fun _ => acts_lockReport _ s
  | qualification edges => cases h; exact change_unlessHeld _ s fun _ => acts_qualification _ s edges
  | acquisitionDeadlineExpiry => cases h; exact change_unlessHeld _ s fun _ => acts_acquisitionDeadline _ s
  | proposalExpiry => cases h; exact change_unlessHeld _ s fun _ => acts_proposalExpiry _ s

/-! ### Steps -/

/-- What is kept by every act along a chain is kept by the chain. -/
theorem Acts.keep {P : State → Prop} {who : Option Port} {s t : State} (h : Acts who s t)
    (hP : ∀ u v, Act who u v → P u → P v) (hs : P s) : P t := by
  induction h with
  | refl => exact hs
  | tail _ ha ih => exact hP _ _ ha ih

/-- What every change, every device reset, the passing of time and the edges of CLKIN keep, every step keeps. Time passes and
CLKIN rises only while no qualification is due. -/
theorem step_keeps {P : State → Prop} (hchange : ∀ who s t, Change who s t → P s → P t)
    (hreset : ∀ cause s, P s → P (deviceResetEvent cause s))
    (hpending : ∀ s l, P s → P { s with pending := l }) (hspend : ∀ s, P s → P s.spendFresh)
    (htick : ∀ s, s.resetHeld = false → s.dueQualification = [] → P s → P s.tick)
    (hedge : ∀ s, s.resetHeld = false → s.dueQualification = [] → P s → P s.clkinEdge)
    {s t : State} (hs : P s) (h : step s = .next t) : P t := by
  have hexec : ∀ c u, P u → exec c u = .next t → P t := by
    intro c u hu he
    cases hr : isDeviceReset c
    · exact hchange _ u t (exec_change he hr) hu
    · cases c with
      | deviceReset cause => cases he; exact hreset cause u hu
      | _ => cases hr
  obtain ⟨c, rest, -, he⟩ | ⟨-, ⟨c, -, he⟩ | ⟨hdue, he⟩⟩ := step_cases h
  · exact hexec c _ (hpending s rest hs) he
  · exact hexec c _ (hspend s hs) he
  · have htick' : ∀ u : State, u.dueQualification = s.dueQualification →
        u.resetHeld = s.resetHeld → P u → P u.tick := by
      intro u hu hr hp
      cases hh : u.resetHeld
      · refine htick u hh ?_ hp
        rw [State.dueEvents, ← hr, hh] at hdue
        simp at hdue
        exact hu.trans hdue.2.2.2.2.1
      · rw [State.tick, if_pos hh]
        exact hp
    by_cases hc : s.onClkin = true
    · have hh := (onClkin_iff.1 hc).1
      rw [State.dueEvents, hh] at hdue
      simp at hdue
      obtain hel | hel := elapse_of_onClkin hc
      · rw [← he, hel]
        exact htick' _ rfl rfl (hspend s hs)
      · rw [← he, hel]
        exact hedge _ hh hdue.2.2.2.2.1 (hspend s hs)
    · rw [← he, elapse_of_not_onClkin hc]
      exact htick' s rfl rfl hs

end Sys2Proof.Machine
end

section
/-! What every act leaves unchanged: the commands that wait, the free values, the held reset, the slot records but for those a
completion writes, and the ports but for the notices they are told and the record of the port that acts. -/

namespace Sys2Proof.Machine

/-! ### Ports that are told of notices -/

/-- From `x` to `y` a port has been told of notices and nothing else. -/
abbrev Hears : PortState → PortState → Prop :=
  Relation.ReflTransGen fun x y => ∃ b n now, y = x.receive b n now

theorem Hears.receive (x : PortState) (b : Bool) (n : Notice) (now : Time) : Hears x (x.receive b n now) :=
  .single ⟨b, n, now, rfl⟩

theorem Hears.sameButEvents {x y : PortState} (h : Hears x y) : y.SameButEvents x := by
  induction h with
  | refl => exact .refl x
  | tail _ hs ih =>
    obtain ⟨b, n, now, rfl⟩ := hs
    refine PortState.SameButEvents.trans ?_ ih
    rw [PortState.receive_eq]
    rfl

theorem Hears.attached {x y : PortState} (h : Hears x y) : y.attached = x.attached := h.sameButEvents.attached

theorem PortLaw.hears {x y : PortState} (hx : PortLaw x) (h : Hears x y) : PortLaw y := by
  induction h with
  | refl => exact hx
  | tail _ hs ih =>
    obtain ⟨b, n, now, rfl⟩ := hs
    exact ih.receive b n now

/-! ### Slot records -/

/-- A record that a completion may write (R99, R100). -/
def SlotRecord.written (r : SlotRecord) : Prop := r.valid = true ∧ (r.retired = true → r.overrun = false)

theorem written_resultRecord (s : State) (c : Copy) (v : BitVec 16) (full : Bool) :
    (s.resultRecord c v full).written := by
  refine ⟨rfl, fun h => ?_⟩
  have hc : s.isCurrent c = false := by simpa [State.resultRecord] using h
  simp [State.resultRecord, hc]

/-! ### Tellings -/

/-- From `s` to `t` the ports have only been told of notices, and the commands that wait, the free values, the held reset and
the slot records stay, but for slot records written anew. -/
structure Tells (s t : State) : Prop where
  port : ∀ q, Hears (s.port q) (t.port q)
  pending : t.pending = s.pending
  fresh : t.fresh = s.fresh
  held : t.resetHeld = s.resetHeld
  slot : ∀ i, t.slotAt i = s.slotAt i ∨ (t.slotAt i).written

theorem Tells.refl (s : State) : Tells s s := ⟨fun _ => .refl, rfl, rfl, rfl, fun _ => .inl rfl⟩

theorem Tells.trans {s t u : State} (h1 : Tells s t) (h2 : Tells t u) : Tells s u where
  port q := (h1.port q).trans (h2.port q)
  pending := h2.pending.trans h1.pending
  fresh := h2.fresh.trans h1.fresh
  held := h2.held.trans h1.held
  slot i := by
    obtain h | h := h2.slot i
    · rw [h]
      exact h1.slot i
    · exact .inr h

/-- A change that leaves the ports, the slots and the model's own fields. -/
theorem Tells.of_eq {s t : State} (hports : t.ports = s.ports) (hslots : t.slots = s.slots)
    (hp : t.pending = s.pending) (hf : t.fresh = s.fresh) (hh : t.resetHeld = s.resetHeld) : Tells s t where
  port q := by
    rw [State.port, State.port, hports]
  pending := hp
  fresh := hf
  held := hh
  slot i := .inl (by rw [State.slotAt, State.slotAt, hslots])

theorem Tells.raise (s : State) (n : Notice) (who : PortSet) : Tells s (s.raise n who) where
  port q := by
    rw [State.port_raise]
    exact .receive _ _ _ _
  pending := rfl
  fresh := rfl
  held := rfl
  slot _ := .inl rfl

/-- What is done to other parts before the telling. -/
theorem Tells.raise_of {s t : State} (h : Tells s t) (n : Notice) (who : PortSet) : Tells s (t.raise n who) :=
  h.trans (.raise t n who)

theorem Tells.setEntry (s : State) (e : EntryId) (x : Entry) : Tells s (s.setEntry e x) := .of_eq rfl rfl rfl rfl rfl

theorem Tells.setMonitor (s : State) (m : MonId) (x : Monitor) : Tells s (s.setMonitor m x) :=
  .of_eq rfl rfl rfl rfl rfl

/-- The converter, its work and the Sampling Clock. -/
theorem Tells.setWork (s : State) (cv : Converter) (w : Option Nat) (c : Clock) :
    Tells s { s with converter := cv, work := w, clock := c } := .of_eq rfl rfl rfl rfl rfl

/-! ### Tickets and the Arbiter -/

theorem Tells.discardTicket (s : State) (e : EntryId) (c : Option DiscardCause) : Tells s (s.discardTicket e c) := by
  have h : Tells s (s.dropTicket e) := .of_eq rfl rfl rfl rfl rfl
  unfold State.discardTicket
  split
  · exact h.raise_of _ _
  · exact h
  · exact .refl s

theorem Tells.trigger (s : State) (e : EntryId) (o : Origin) : Tells s (s.trigger e o).1 := by
  unfold State.trigger
  split
  · split
    · exact .of_eq rfl rfl rfl rfl rfl
    · split
      · exact .refl s
      · split
        · show Tells s (s.dropTrigger e o)
          unfold State.dropTrigger
          split
          · exact .refl s
          · exact (Tells.setEntry s e _).raise_of _ _
        · exact .of_eq rfl rfl rfl rfl rfl
  · exact .refl s

theorem Tells.triggerAll (s : State) (es : List EntryId) (o : Origin) : Tells s (s.triggerAll es o) := by
  unfold State.triggerAll
  induction es generalizing s with
  | nil => exact .refl s
  | cons e es ih => exact (Tells.trigger s e o).trans (ih _)

theorem Tells.consult (s : State) : Tells s s.consult := by
  refine .of_eq ?_ ?_ ?_ ?_ ?_ <;> rw [consult_frame]

theorem Tells.fanOut (s : State) (tr : Trigger) (o : Origin) : Tells s (s.fanOut tr o) :=
  (Tells.triggerAll s _ o).trans (.consult _)

/-! ### Monitors and completions -/

theorem Tells.crossing (s : State) (m : MonId) (old new : Zone) (v : BitVec 16) : Tells s (s.crossing m old new v) := by
  unfold State.crossing
  split
  · simp only
    split
    · exact .raise _ _ _
    · exact (Tells.raise _ _ _).trans (.trigger _ _ _)
  · exact .refl s

theorem Tells.evaluateOne (s : State) (i : SlotId) (v : BitVec 16) (m : MonId) : Tells s (s.evaluateOne i v m) := by
  unfold State.evaluateOne
  split
  · have h : Tells s (s.setMonitor m (evaluate (s.monitor m) v.toInt).1) := .of_eq rfl rfl rfl rfl rfl
    simp only
    split
    · exact h.trans (.crossing _ _ _ _ _)
    · exact h
  · exact .refl s

theorem Tells.evaluateAll (s : State) (i : SlotId) (v : BitVec 16) : Tells s (s.evaluateAll i v) := by
  unfold State.evaluateAll
  generalize List.finRange 12 = l
  induction l generalizing s with
  | nil => exact .refl s
  | cons m l ih => exact (Tells.evaluateOne s i v m).trans (ih _)

theorem Tells.writeResult (s : State) (c : Copy) (v : BitVec 16) (full : Bool) : Tells s (s.writeResult c v full) where
  port q := by
    unfold State.writeResult
    simp only
    split <;> exact .refl
  pending := by unfold State.writeResult; simp only; split <;> rfl
  fresh := by unfold State.writeResult; simp only; split <;> rfl
  held := by unfold State.writeResult; simp only; split <;> rfl
  slot i := by
    rw [State.slotAt, slots_writeResult, Table.get_set]
    split
    · exact .inr (written_resultRecord s c v full)
    · exact .inl rfl

theorem Tells.deliver (s : State) (c : Copy) (v : BitVec 16) (full : Bool) : Tells s (s.deliver c v full) := by
  refine (Tells.writeResult s c v full).trans (Tells.trans ?_ (.evaluateAll _ _ _))
  unfold State.completionNotice
  split
  · exact .raise _ _ _
  · exact .refl _

/-! ### The Sampling Clock and the converter's work -/

theorem Tells.switchDone (s : State) (r : ClockSetting) : Tells s (s.switchDone r) :=
  (Tells.setWork s .calibrating (workLeft r calibrationPeriods) (s.clock.succeed r)).raise_of _ _

theorem Tells.switchFailed (s : State) (r : ClockSetting) (c : SwitchCause) : Tells s (s.switchFailed r c) := by
  exact ((Tells.setWork s .idle none _).trans (.consult _)).raise_of _ _

theorem Tells.endDraining (s : State) (r : ClockSetting) : Tells s (s.endDraining r) := by
  unfold State.endDraining
  refine Tells.trans
    (t := { s with converter := .held, work := none, clock := { s.clock with phase := .acquiring r } })
    (.of_eq rfl rfl rfl rfl rfl) ?_
  unfold State.acquire
  split
  · split
    · exact .switchFailed _ _ _
    · exact .switchDone _ _
  · split
    · exact .switchDone _ _
    · exact .of_eq rfl rfl rfl rfl rfl
    · exact .of_eq rfl rfl rfl rfl rfl

theorem Tells.workEnds (s : State) : Tells s s.workEnds := by
  have h : Tells s ({ s with converter := .idle, work := none } : State).consult :=
    (Tells.setWork s .idle none s.clock).trans (.consult _)
  unfold State.workEnds
  split
  · exact .endDraining _ _
  · exact h
  · exact h

theorem Tells.startSwitch (s : State) (r : ClockSetting) : Tells s (s.startSwitch r) := by
  have h : Tells s ({ s with clock := { s.clock with phase := .draining r } }) := .of_eq rfl rfl rfl rfl rfl
  unfold State.startSwitch
  split
  · exact .refl s
  · simp only
    split
    · exact h.trans (.endDraining _ _)
    all_goals exact h

theorem Tells.decideChain (s : State) (c : Copy) : Tells s (s.decideChain c) := by
  have hb : ∀ l, Tells s (s.chainBroken l).workEnds := fun l => (Tells.raise _ _ _).trans (.workEnds _)
  unfold State.decideChain
  split
  · exact .workEnds s
  · split
    · split
      · exact hb _
      · exact .workEnds s
    · split
      · split
        · exact hb _
        · exact .of_eq rfl rfl rfl rfl rfl
      · exact .workEnds s

/-! ### Items that leave their scopes -/

theorem Tells.retargetOne (s : State) (e : EntryId) (b : Bool) (m : MonId) : Tells s (s.retargetOne e b m) := by
  unfold State.retargetOne
  split
  · cases b
    · exact .of_eq rfl rfl rfl rfl rfl
    · exact (Tells.setMonitor s m _).raise_of _ _
  · exact .refl s

theorem Tells.retarget (s : State) (e : EntryId) (b : Bool) : Tells s (s.retarget e b) := by
  unfold State.retarget
  generalize List.finRange 12 = l
  induction l generalizing s with
  | nil => exact .refl s
  | cons m l ih => exact (Tells.retargetOne s e b m).trans (ih _)

theorem Tells.leaveScope (s : State) (e : EntryId) (b : Bool) : Tells s (s.leaveScope e b) := by
  rw [leaveScope_eq]
  have h1 : Tells (s.discardTicket e (if b then some .released else none)) (s.unlinked e b) :=
    .of_eq rfl rfl rfl rfl rfl
  exact (((Tells.discardTicket s e _).trans h1).trans (.retarget _ e b)).trans (.setEntry _ e _)

theorem Tells.freeEntries (s : State) (p : Port) : Tells s (s.freeEntries p) := by
  unfold State.freeEntries
  generalize List.finRange 32 = l
  induction l generalizing s with
  | nil => exact .refl s
  | cons e l ih =>
    refine Tells.trans ?_ (ih _)
    unfold State.freeEntry
    split
    · exact .leaveScope s e false
    · exact .refl s

theorem Tells.freeItems (s : State) (p : Port) : Tells s (s.freeItems p) :=
  (Tells.of_eq (s := s) (t := s.freeMonitors p) rfl rfl rfl rfl rfl).trans (.freeEntries _ p)

/-! ### Proposals -/

theorem Tells.install (s : State) (x : Subject) : Tells s (s.install x) := by
  cases x with
  | entrySet e c =>
    show Tells s (s.installEntry e c)
    unfold State.installEntry
    split
    · exact .setEntry _ _ _
    · exact .setEntry _ _ _
    · exact (Tells.discardTicket s e _).trans (.setEntry _ _ _)
    · exact .refl s
  | entryRemove e => exact .leaveScope s e true
  | monitorSet m c =>
    show Tells s (s.installMonitor m c)
    unfold State.installMonitor
    split
    · exact .setMonitor _ _ _
    · exact .setMonitor _ _ _
    · exact .setMonitor _ _ _
    · exact .refl s
  | clockSet r => exact .startSwitch s r
  | monitorRemove m => exact .setMonitor _ _ _
  | timerSet k period run => exact .of_eq rfl rfl rfl rfl rfl
  | pinSet k edge => exact .of_eq rfl rfl rfl rfl rfl
  | agingSet period => exact .of_eq rfl rfl rfl rfl rfl
  | windowSet window => exact .of_eq rfl rfl rfl rfl rfl

theorem reserve_entrySet (s : State) (e : EntryId) (c : EntryContents) : s.reserve (.entrySet e c) =
    if (s.entry e).state = .free then s.setEntry e { s.entry e with state := .reserved } else s := rfl

theorem reserve_monitorSet (s : State) (m : MonId) (c : MonitorContents) : s.reserve (.monitorSet m c) =
    if (s.monitor m).state = .free then s.setMonitor m { s.monitor m with state := .reserved } else s := rfl

theorem unreserve_entrySet (s : State) (e : EntryId) (c : EntryContents) : s.unreserve (.entrySet e c) =
    if (s.entry e).state = .reserved then s.setEntry e { s.entry e with state := .free } else s := rfl

theorem unreserve_monitorSet (s : State) (m : MonId) (c : MonitorContents) : s.unreserve (.monitorSet m c) =
    if (s.monitor m).state = .reserved then s.setMonitor m { s.monitor m with state := .free } else s := rfl

theorem Tells.reserve (s : State) (x : Subject) : Tells s (s.reserve x) := by
  cases x with
  | entrySet e c =>
    rw [reserve_entrySet]
    split
    · exact .setEntry _ _ _
    · exact .refl s
  | monitorSet m c =>
    rw [reserve_monitorSet]
    split
    · exact .setMonitor _ _ _
    · exact .refl s
  | _ => exact .refl s

theorem Tells.unreserve (s : State) (x : Subject) : Tells s (s.unreserve x) := by
  cases x with
  | entrySet e c =>
    rw [unreserve_entrySet]
    split
    · exact .setEntry _ _ _
    · exact .refl s
  | monitorSet m c =>
    rw [unreserve_monitorSet]
    split
    · exact .setMonitor _ _ _
    · exact .refl s
  | _ => exact .refl s

/-- The Proposal Slot and the identifier counter. -/
theorem Tells.setProposal (s : State) (o : Option Proposal) (n : BitVec 8) :
    Tells s { s with proposal := o, nextId := n } := .of_eq rfl rfl rfl rfl rfl

theorem Tells.settle (s : State) (o : ProposalOutcome) (x : Subject) : Tells s (s.settle o x) := by
  cases o with
  | opened => exact .refl s
  | adopted => exact .install s x
  | refused => exact .unreserve s x
  | expired => exact .unreserve s x
  | withdrawn => exact .unreserve s x

theorem Tells.close (s : State) (pr : Proposal) (o : ProposalOutcome) : Tells s (s.close pr o) :=
  ((Tells.setProposal s none s.nextId).raise_of _ _).trans (.settle _ o _)

theorem Tells.partyLeaves (s : State) (p : Port) : Tells s (s.partyLeaves p) := by
  unfold State.partyLeaves
  split
  · exact .refl s
  · split
    · exact .close s _ _
    · split
      · split
        · exact .close s _ _
        · exact .setProposal s _ s.nextId
      · exact .refl s

theorem Tells.proposed (s : State) (p : Port) (x : Subject) : Tells s (s.proposed p x).1 := by
  unfold State.proposed
  split
  · exact (Tells.setProposal s s.proposal _).trans (.install _ x)
  · exact ((Tells.setProposal s _ _).trans (.reserve _ x)).raise_of _ _

theorem Tells.counted (s : State) (pr : Proposal) (p : Port) (accept : Bool) : Tells s (s.counted pr p accept).1 := by
  unfold State.counted
  split
  · split
    · exact Tells.close s (pr.acceptedBy p) .adopted
    · exact .setProposal s _ s.nextId
  · exact Tells.close s pr .refused

/-! ### Acts -/

/-- From `s` to `t` nothing is left but what an act at port `who` may change of the ports and of the model's own fields: the
law of the ports is kept, and no other port changes but in its event queue. -/
structure ActFrame (who : Option Port) (s t : State) : Prop where
  law : ∀ q, PortLaw (s.port q) → PortLaw (t.port q)
  others : ∀ q, who ≠ some q → (t.port q).SameButEvents (s.port q)
  pending : t.pending = s.pending
  fresh : t.fresh = s.fresh
  held : t.resetHeld = s.resetHeld
  slot : ∀ i, t.slotAt i = s.slotAt i ∨ (t.slotAt i).written

theorem Tells.actFrame {s t : State} (h : Tells s t) (who : Option Port) : ActFrame who s t where
  law q hq := hq.hears (h.port q)
  others q _ := (h.port q).sameButEvents
  pending := h.pending
  fresh := h.fresh
  held := h.held
  slot := h.slot

theorem ActFrame.trans {who : Option Port} {s t u : State} (h1 : ActFrame who s t) (h2 : ActFrame who t u) :
    ActFrame who s u where
  law q hq := h2.law q (h1.law q hq)
  others q hq := (h2.others q hq).trans (h1.others q hq)
  pending := h2.pending.trans h1.pending
  fresh := h2.fresh.trans h1.fresh
  held := h2.held.trans h1.held
  slot i := by
    obtain h | h := h2.slot i
    · rw [h]
      exact h1.slot i
    · exact .inr h

/-- The record of the port that acts. -/
theorem ActFrame.setPort (s : State) (p : Port) {y : PortState} (hy : PortLaw (s.port p) → PortLaw y) :
    ActFrame (some p) s (s.setPort p y) where
  law q hq := by
    rw [State.port_setPort]
    split
    · rename_i h
      exact hy (h ▸ hq)
    · exact hq
  others q hq := by
    rw [State.port_setPort, if_neg fun h => hq (congrArg some h.symm)]
    exact .refl _
  pending := rfl
  fresh := rfl
  held := rfl
  slot _ := .inl rfl

theorem Tells.setWorkOf (s : State) (cv : Converter) (w : Option Nat) (cal : Option Calibration) (c : Clock) :
    Tells s { s with converter := cv, work := w, calibration := cal, clock := c } := .of_eq rfl rfl rfl rfl rfl

theorem Tells.acquisitionFails (s : State) (r : ClockSetting) : Tells s (s.acquisitionFails r) := by
  unfold State.acquisitionFails
  split
  · exact (Tells.setWork s s.converter s.work _).trans (.switchFailed _ _ _)
  · exact .switchFailed _ _ _
  · exact .refl s

theorem Tells.qualify (s : State) (r : ClockSetting) (edges : Nat) : Tells s (s.qualify r edges) := by
  unfold State.qualify
  split
  · exact .switchFailed _ _ _
  · exact (Tells.setWork s s.converter s.work _).trans (.switchDone _ _)

theorem Inner.tells {s t : State} (h : Inner s t) : Tells s t := by
  cases h with
  | request p e => exact (Tells.trigger s e _).trans (.consult _)
  | cancel e => exact Tells.of_eq (s := s) (t := s.dropTicket e) rfl rfl rfl rfl rfl
  | setTimer k x => exact Tells.of_eq (s := s) (t := s.setTimer k x) rfl rfl rfl rfl rfl
  | acceptLevel k l => exact Tells.of_eq (s := s) (t := s.setPin k _) rfl rfl rfl rfl rfl
  | fanOut tr o => exact Tells.fanOut s tr o
  | settled c => exact Tells.setWork s _ _ s.clock
  | sampled c => exact Tells.setWork s _ _ s.clock
  | completed c => exact (Tells.deliver s c _ _).trans (.decideChain _ c)
  | calibrated found => exact (Tells.setWorkOf s s.converter s.work (some found) s.clock).trans (.workEnds _)
  | locked r => exact (Tells.setWork s s.converter s.work _).trans (.switchDone _ r)
  | qualified r edges => exact Tells.qualify s r edges
  | timedOut r => exact Tells.acquisitionFails s r

theorem Act.frame {who : Option Port} {s t : State} (h : Act who s t) : ActFrame who s t := by
  cases h with
  | port p y hw _ hlaw =>
    subst hw
    exact .setPort s p hlaw
  | attach p timeout subs n hw _ =>
    subst hw
    exact (ActFrame.setPort s p fun h => h.opened _ _ _ _).trans ((Tells.raise _ _ _).actFrame _)
  | detach p detail hw _ =>
    subst hw
    refine (ActFrame.setPort s p PortLaw.leave).trans (Tells.actFrame ?_ _)
    exact ((Tells.freeItems _ p).raise_of _ _).trans (.partyLeaves _ p)
  | claimEntry p e => exact (Tells.setEntry s e _).actFrame _
  | writeEntry p e => exact ((Tells.discardTicket s e _).trans (.setEntry _ e _)).actFrame _
  | releaseEntry p e => exact (Tells.leaveScope s e true).actFrame _
  | claimMonitor p m => exact (Tells.setMonitor s m _).actFrame _
  | writeMonitor p m => exact (Tells.setMonitor s m _).actFrame _
  | releaseMonitor p m => exact (Tells.setMonitor s m _).actFrame _
  | propose p raw x => exact (Tells.proposed s p x).actFrame _
  | vote p pr accept => exact (Tells.counted s pr p accept).actFrame _
  | close pr o => exact (Tells.close s pr o).actFrame _
  | inner h => exact h.tells.actFrame _

theorem ActFrame.refl (who : Option Port) (s : State) : ActFrame who s s := (Tells.refl s).actFrame who

theorem Acts.frame {who : Option Port} {s t : State} (h : Acts who s t) : ActFrame who s t := by
  induction h with
  | refl => exact .refl who s
  | tail _ ha ih => exact ih.trans ha.frame

/-! ### Commands -/

/-- A command other than a device reset leaves the commands that wait and the free values. -/
theorem Change.own {who : Option Port} {s t : State} (h : Change who s t) : t.pending = s.pending ∧ t.fresh = s.fresh := by
  cases h with
  | same => exact ⟨rfl, rfl⟩
  | frame => exact ⟨rfl, rfl⟩
  | release hh => rw [resetReleaseEvent, if_pos hh]; exact ⟨rfl, rfl⟩
  | acts _ h => exact ⟨h.frame.pending, h.frame.fresh⟩

/-- A command at one port changes no other port but in its event queue. -/
theorem Change.others {who : Option Port} {s t : State} (h : Change who s t) {q : Port} (hq : who ≠ some q) :
    (t.port q).SameButEvents (s.port q) := by
  cases h with
  | same => exact .refl _
  | frame p f hw =>
    rw [State.port_setPort, if_neg fun h => hq (hw.trans (congrArg some h.symm))]
    exact .refl _
  | release hh => rw [resetReleaseEvent, if_pos hh]; exact .refl _
  | acts _ h => exact h.frame.others q hq

/-- Settles O14: the frame of every change. -/
theorem otherPortsKeepTheirSession : Obligations.OtherPortsKeepTheirSession :=
  fun _ _ _ _ h hr hq => (exec_change h hr).others hq

/-- Every command answers a next state. -/
theorem exec_next (c : Instr) (s : State) : ∃ t, exec c s = .next t := by
  cases c <;> exact ⟨_, rfl⟩

/-- Settles O4: a device reset keeps the two fields as it is written, and every other command by its frame. -/
theorem everyCommandAnswersNext : Obligations.EveryCommandAnswersNext := by
  intro c s
  obtain ⟨t, ht⟩ := exec_next c s
  cases hr : isDeviceReset c
  · exact ⟨t, ht, (exec_change ht hr).own⟩
  · cases c with
    | deviceReset cause => exact ⟨_, rfl, rfl, rfl⟩
    | _ => cases hr

/-! ### The laws of the ports, of slot records and of a held reset -/

/-- Settles O55: each change keeps the law of each port. -/
theorem stepKeepsPortLaw : Obligations.StepKeepsPortLaw := by
  intro s t hs h
  refine step_keeps (P := LinkPortsLaw) ?change ?reset ?pending ?spend ?tick ?edge hs h
  case change =>
    intro who s t hc hs
    cases hc with
    | same => exact hs
    | frame p f => exact fun q => (ActFrame.setPort s p fun h => h.frame f).law q (hs q)
    | release hh => rw [resetReleaseEvent, if_pos hh]; exact hs
    | acts _ h => exact fun q => h.frame.law q (hs q)
  case reset =>
    intro cause s _ q
    have hq : (deviceResetEvent cause s).port q = (s.port q).inReset (s.causeOf cause) := PerPort.get_mapIdx _ _ q
    rw [hq]
    exact portLaw_reset _ _
  case pending => exact fun _ _ hs => hs
  case spend => exact fun _ hs => hs
  case edge => exact fun _ _ _ hs => hs
  case tick =>
    intro s hh _ hs q
    have hq : s.tick.port q = (s.port q).tick := by
      rw [State.tick, if_neg (by simp [hh])]
      exact PerPort.get_mapIdx _ _ q
    have hp := hs q
    rw [hq]
    exact ⟨hp.detached, hp.deadline, hp.events, hp.snapshot, hp.slot, Nat.min_le_left 160 _⟩

/-- A record written anew, or one that kept the law, keeps it. -/
theorem SlotLaw.of_slot {s t : State} (h : SlotLaw s) (ht : ∀ i, t.slotAt i = s.slotAt i ∨ (t.slotAt i).written) :
    SlotLaw t where
  fresh i hi := by
    obtain he | hw := ht i
    · rw [he] at hi ⊢
      exact h.fresh i hi
    · exact absurd (hw.1.symm.trans hi) (by simp)
  retired i hi := by
    obtain he | hw := ht i
    · rw [he] at hi ⊢
      exact h.retired i hi
    · exact hw.2 hi

theorem slotLaw_of_reset {s : State} (h : ∀ i, s.slotAt i = .reset) : SlotLaw s where
  fresh i _ := h i
  retired i _ := by rw [h i]; rfl

theorem stepKeepsSlotLaw {s t : State} (hs : SlotLaw s) (h : step s = .next t) : SlotLaw t := by
  refine step_keeps (P := SlotLaw) ?change ?reset ?pending ?spend ?tick ?edge hs h
  case change =>
    intro who s t hc hs
    cases hc with
    | same => exact hs
    | frame p f => exact hs.of_slot fun _ => .inl rfl
    | release hh => rw [resetReleaseEvent, if_pos hh]; exact hs.of_slot fun _ => .inl rfl
    | acts _ h => exact hs.of_slot h.frame.slot
  case reset => exact fun _ _ _ => slotLaw_of_reset fun i => Table.get_fill _ i
  case pending => exact fun _ _ hs => hs.of_slot fun _ => .inl rfl
  case spend => exact fun _ hs => hs.of_slot fun _ => .inl rfl
  case edge => exact fun _ _ _ hs => hs.of_slot fun _ => .inl rfl
  case tick =>
    intro s hh _ hs
    rw [State.tick, if_neg (by simp [hh])]
    exact hs.of_slot fun _ => .inl rfl

/-- A device reset puts every block at its reset state. -/
theorem heldLaw_deviceReset (cause : ResetCause) (s : State) : HeldLaw (deviceResetEvent cause s) :=
  fun _ => ⟨rfl, fun q => ⟨(s.port q).frame.abandon, PerPort.get_mapIdx _ _ q⟩⟩

theorem HeldLaw.of_released {s : State} (h : s.resetHeld = false) : HeldLaw s :=
  fun hh => absurd (h.symm.trans hh) (by simp)

theorem Change.keepsHeldLaw {who : Option Port} {s t : State} (hc : Change who s t) (hs : HeldLaw s) : HeldLaw t := by
  cases hc with
  | same => exact hs
  | frame p f =>
    intro hh
    obtain ⟨h1, h2⟩ := hs hh
    refine ⟨h1, fun q => ?_⟩
    rw [State.port_setPort]
    split
    · obtain ⟨g, hg⟩ := h2 p
      exact ⟨f, by rw [hg]; rfl⟩
    · exact h2 q
  | release hh =>
    rw [resetReleaseEvent, if_pos hh]
    exact .of_released rfl
  | acts hh h => exact .of_released (h.frame.held.trans hh)

theorem stepKeepsHeldLaw {s t : State} (hs : HeldLaw s) (h : step s = .next t) : HeldLaw t := by
  refine step_keeps (P := HeldLaw) (fun who s t hc hs => hc.keepsHeldLaw hs) (fun cause s _ => heldLaw_deviceReset cause s)
    (fun s l hs => hs) (fun s hs => hs) ?tick ?edge hs h
  case tick =>
    intro s hh _ _
    rw [State.tick, if_neg (by simp [hh])]
    exact .of_released hh
  case edge => exact fun _ hh _ _ => .of_released hh

/-- Settles O60: the law of slot records by the records that a completion writes, the law of a held reset by the commands that
act while one is held. -/
theorem stepKeepsSlotAndHeldLaw : Obligations.StepKeepsSlotAndHeldLaw :=
  fun _ _ h => ⟨fun hs => stepKeepsSlotLaw hs h, fun hs => stepKeepsHeldLaw hs h⟩

end Sys2Proof.Machine
end

section
/-! The law of the Dispatch Queue (R38, R39, R41, R55): a change that only takes tickets away keeps it, a trigger keeps all of it
but what it says of an IDLE converter, and a consultation brings that about again. -/

namespace Sys2Proof.Machine

/-! ### The law without what it says of an IDLE converter -/

/-- The law of the Dispatch Queue but for the rule that no ticket waits while the converter stands IDLE. -/
structure QueueCore (s : State) : Prop where
  room : s.queue.length ≤ 24
  once : (s.queue.map (·.entry)).Nodup
  scope : ∀ t ∈ s.queue, (s.entry t.entry).state.inScope = true
  cls : ∀ t ∈ s.queue, t.cls = (s.entry t.entry).contents.cls
  quota : ∀ p, s.waiting p ≤ 6

theorem QueueLaw.core {s : State} (h : QueueLaw s) : QueueCore s := ⟨h.room, h.once, h.scope, h.cls, h.quota⟩

theorem QueueCore.law {s : State} (h : QueueCore s) (hi : s.converter = .idle → s.queue = []) : QueueLaw s :=
  ⟨h.room, h.once, h.scope, h.cls, h.quota, hi⟩

theorem QueueCore.busy {s : State} (h : QueueCore s) (hc : s.converter ≠ .idle) : QueueLaw s :=
  h.law fun hi => absurd hi hc

/-- Tickets are taken away; the entries of those that stay keep their class and are in a scope still. -/
theorem QueueCore.mono {s t : State} (h : QueueCore s) (hq : t.queue.Sublist s.queue)
    (he : ∀ k ∈ t.queue, (s.entry k.entry).state.inScope = true →
      (t.entry k.entry).state.inScope = true ∧ (t.entry k.entry).contents.cls = (s.entry k.entry).contents.cls) :
    QueueCore t where
  room := hq.length_le.trans h.room
  once := h.once.sublist (hq.map _)
  scope k hk := (he k hk (h.scope k (hq.subset hk))).1
  cls k hk := (h.cls k (hq.subset hk)).trans (he k hk (h.scope k (hq.subset hk))).2.symm
  quota p := hq.countP_le.trans (h.quota p)

theorem QueueCore.of_eq {s t : State} (h : QueueCore s) (hq : t.queue = s.queue) (he : t.entries = s.entries) :
    QueueCore t :=
  h.mono (hq ▸ List.Sublist.refl _) fun k _ hk => by
    have : t.entry k.entry = s.entry k.entry := by rw [State.entry, State.entry, he]
    rw [this]
    exact ⟨hk, rfl⟩

/-! ### Changes that take tickets away -/

/-- From `s` to `t` tickets are only taken away, the entries of those that stay keep scope and class, and the converter does not
become IDLE. -/
structure Shrinks (s t : State) : Prop where
  queue : t.queue.Sublist s.queue
  kept : ∀ k ∈ t.queue, (s.entry k.entry).state.inScope = true →
    (t.entry k.entry).state.inScope = true ∧ (t.entry k.entry).contents.cls = (s.entry k.entry).contents.cls
  idle : t.converter = .idle → s.converter = .idle

theorem QueueLaw.shrinks {s t : State} (h : QueueLaw s) (ht : Shrinks s t) : QueueLaw t :=
  (h.core.mono ht.queue ht.kept).law fun hi => List.sublist_nil.1 (h.idle (ht.idle hi) ▸ ht.queue)

theorem Shrinks.trans {s t u : State} (h1 : Shrinks s t) (h2 : Shrinks t u) : Shrinks s u where
  queue := h2.queue.trans h1.queue
  kept k hk hs := by
    obtain ⟨ht, hc⟩ := h1.kept k (h2.queue.subset hk) hs
    obtain ⟨hu, hc'⟩ := h2.kept k hk ht
    exact ⟨hu, hc'.trans hc⟩
  idle hu := h1.idle (h2.idle hu)

/-- A change elsewhere. -/
theorem Shrinks.of_eq {s t : State} (hq : t.queue = s.queue) (he : t.entries = s.entries)
    (hc : t.converter = s.converter) : Shrinks s t where
  queue := hq ▸ List.Sublist.refl _
  kept k _ hk := by
    have : t.entry k.entry = s.entry k.entry := by rw [State.entry, State.entry, he]
    rw [this]
    exact ⟨hk, rfl⟩
  idle h := hc ▸ h

theorem Shrinks.refl (s : State) : Shrinks s s := .of_eq rfl rfl rfl

theorem Shrinks.raise (s : State) (n : Notice) (who : PortSet) : Shrinks s (s.raise n who) := .of_eq rfl rfl rfl

/-- An entry changes that has no ticket, or keeps its scope and class. -/
theorem Shrinks.setEntry {s : State} {e : EntryId} {x : Entry}
    (h : (∃ k ∈ s.queue, k.entry = e) → (s.entry e).state.inScope = true →
      x.state.inScope = true ∧ x.contents.cls = (s.entry e).contents.cls) : Shrinks s (s.setEntry e x) where
  queue := List.Sublist.refl _
  kept k hk hs := by
    rw [State.entry_setEntry]
    split
    · rename_i he
      rw [he] at hs ⊢
      exact h ⟨k, hk, he⟩ hs
    · exact ⟨hs, rfl⟩
  idle h := h

theorem Shrinks.discardTicket (s : State) (e : EntryId) (c : Option DiscardCause) : Shrinks s (s.discardTicket e c) := by
  have h := discardTicket_frame s e c
  generalize s.discardTicket e c = t at h
  rw [h]
  exact ⟨List.filter_sublist, fun _ _ hk => ⟨hk, rfl⟩, fun h => h⟩

theorem no_ticket_discardTicket (s : State) (e : EntryId) (c : Option DiscardCause) :
    ¬∃ k ∈ (s.discardTicket e c).queue, k.entry = e := by
  rw [queue_discardTicket]
  rintro ⟨k, hk, he⟩
  simp [he] at hk

theorem Shrinks.leaveScope (s : State) (e : EntryId) (b : Bool) : Shrinks s (s.leaveScope e b) where
  queue := by
    rw [queue_leaveScope]
    exact List.filter_sublist
  kept k hk hs := by
    rw [queue_leaveScope] at hk
    have hne : k.entry ≠ e := by simpa using (List.mem_filter.1 hk).2
    rw [entry_leaveScope, if_neg hne]
    split <;> exact ⟨hs, rfl⟩
  idle h := by
    rw [leaveScope_frame] at h
    exact h

theorem Shrinks.freeItems (s : State) (p : Port) : Shrinks s (s.freeItems p) := by
  have hl : ∀ (l : List EntryId) (u : State), Shrinks u (l.foldl (State.freeEntry p) u) := by
    intro l
    induction l with
    | nil => exact .refl
    | cons e l ih =>
      intro u
      refine Shrinks.trans ?_ (ih _)
      unfold State.freeEntry
      split
      · exact .leaveScope u e false
      · exact .refl u
  exact (Shrinks.of_eq (s := s) (t := s.freeMonitors p) rfl rfl rfl).trans (hl _ _)

/-! ### Triggers and the Arbiter -/

theorem QueueCore.append {s : State} (h : QueueCore s) {e : EntryId} {o : Origin}
    (hsc : (s.entry e).state.inScope = true) (hk : s.ticketOf e = none) (hq : s.atQuota o ≠ true)
    (hl : s.queue.length < 24) : QueueCore (s.append e o) where
  room := by
    rw [State.append, List.length_append]
    exact hl
  once := by
    have hne : e ∉ s.queue.map (·.entry) := by
      simpa [State.ticketOf, List.find?_eq_none] using hk
    rw [State.append, List.map_append]
    exact List.nodup_append.2 ⟨h.once, List.nodup_singleton _, fun x hx y hy hxy => by
      simp at hy
      exact hne (hy ▸ hxy ▸ hx)⟩
  scope t ht := by
    obtain ht | ht := List.mem_append.1 ht
    · exact h.scope t ht
    · rw [List.mem_singleton.1 ht]
      exact hsc
  cls t ht := by
    obtain ht | ht := List.mem_append.1 ht
    · exact h.cls t ht
    · rw [List.mem_singleton.1 ht]
      rfl
  quota p := by
    have hp := h.quota p
    have happ : (s.append e o).waiting p = s.waiting p + if o = .port p then 1 else 0 := by
      simp [State.waiting, State.append, List.countP_append, List.countP_singleton]
    rw [happ]
    split
    · have : ¬6 ≤ s.waiting p := fun hw => hq (atQuota_iff.2 ⟨p, by assumption, hw⟩)
      omega
    · exact hp

theorem QueueCore.trigger {s : State} (h : QueueCore s) (e : EntryId) (o : Origin) : QueueCore (s.trigger e o).1 := by
  have hset : ∀ x : Entry, x.state = (s.entry e).state → x.contents = (s.entry e).contents →
      QueueCore (s.setEntry e x) := fun x hs hc =>
    have hsh := Shrinks.setEntry (s := s) (e := e) (x := x) fun _ hi => ⟨hs ▸ hi, by rw [hc]⟩
    h.mono hsh.queue hsh.kept
  unfold State.trigger
  split
  · split
    · exact hset _ rfl rfl
    · split
      · exact h
      · split
        · show QueueCore (s.dropTrigger e o)
          unfold State.dropTrigger
          split
          · exact h
          · exact (hset { s.entry e with drops := satInc (s.entry e).drops } rfl rfl).of_eq rfl rfl
        · exact h.append (by assumption) (by assumption) (by assumption) (by omega)
  · exact h

theorem QueueCore.triggerAll {s : State} (h : QueueCore s) (es : List EntryId) (o : Origin) :
    QueueCore (s.triggerAll es o) := by
  unfold State.triggerAll
  induction es generalizing s with
  | nil => exact h
  | cons e es ih => exact ih (h.trigger e o)

/-- After a consultation no ticket waits at an IDLE converter. -/
theorem QueueCore.consult {s : State} (h : QueueCore s) : QueueLaw s.consult := by
  by_cases hi : s.converter = .idle
  · by_cases hq : s.queue = []
    · rw [consult_of_empty hq]
      exact h.law fun _ => hq
    · obtain ⟨k, hk⟩ := Option.isSome_iff_exists.1 (choose_isSome (aging := s.aging) (now := s.timebase) hq)
      have hs := h.scope k (choose_mem hk)
      rcases he : (s.entry k.entry).state with _ | _ | sc
      · simp [he, ItemState.inScope] at hs
      · simp [he, ItemState.inScope] at hs
      · rw [consult_of_choice hi hk he]
        have hc : QueueCore (s.dispatched k sc) := h.mono List.filter_sublist fun _ _ hk => ⟨hk, rfl⟩
        exact hc.busy (by simp [State.dispatched])
  · rw [consult_of_busy hi]
    exact h.busy hi

theorem QueueCore.fanOut {s : State} (h : QueueCore s) (tr : Trigger) (o : Origin) : QueueLaw (s.fanOut tr o) :=
  (h.triggerAll _ o).consult

/-! ### The converter and the Sampling Clock -/

theorem QueueCore.switchDone {s : State} (h : QueueCore s) (r : ClockSetting) : QueueLaw (s.switchDone r) :=
  (h.of_eq (t := s.switchDone r) rfl rfl).busy (by simp [State.switchDone])

theorem QueueCore.switchFailed {s : State} (h : QueueCore s) (r : ClockSetting) (c : SwitchCause) :
    QueueLaw (s.switchFailed r c) :=
  (QueueCore.consult (h.of_eq (by rfl) (by rfl))).shrinks (.raise _ _ _)

theorem QueueCore.endDraining {s : State} (h : QueueCore s) (r : ClockSetting) : QueueLaw (s.endDraining r) := by
  have h' : QueueCore { s with converter := .held, work := none, clock := { s.clock with phase := .acquiring r } } :=
    h.of_eq rfl rfl
  unfold State.endDraining State.acquire
  split
  · split
    · exact h'.switchFailed _ _
    · exact h'.switchDone _
  · split
    · exact h'.switchDone _
    · exact (h'.of_eq (by rfl) (by rfl)).busy Converter.noConfusion
    · exact (h'.of_eq (by rfl) (by rfl)).busy Converter.noConfusion

theorem QueueCore.workEnds {s : State} (h : QueueCore s) : QueueLaw s.workEnds := by
  have h' : QueueCore { s with converter := .idle, work := none } := h.of_eq rfl rfl
  unfold State.workEnds
  split
  · exact h.endDraining _
  · exact h'.consult
  · exact h'.consult

theorem QueueLaw.startSwitch {s : State} (h : QueueLaw s) (r : ClockSetting) : QueueLaw (s.startSwitch r) := by
  have h' : QueueLaw { s with clock := { s.clock with phase := .draining r } } := h.shrinks (.of_eq rfl rfl rfl)
  unfold State.startSwitch
  split
  · exact h
  · simp only
    split
    · exact h'.core.endDraining r
    all_goals exact h'

theorem QueueCore.evaluateAll {s : State} (h : QueueCore s) (i : SlotId) (v : BitVec 16) :
    QueueCore (s.evaluateAll i v) := by
  unfold State.evaluateAll
  generalize List.finRange 12 = l
  induction l generalizing s with
  | nil => exact h
  | cons m l ih =>
    refine ih ?_
    have hm : QueueCore (s.setMonitor m (evaluate (s.monitor m) v.toInt).1) := h.of_eq rfl rfl
    unfold State.evaluateOne
    split
    · simp only
      split
      · unfold State.crossing
        split
        · simp only
          split
          · exact hm.of_eq rfl rfl
          · exact QueueCore.trigger (hm.of_eq (by rfl) (by rfl)) _ _
        · exact hm
      · exact hm
    · exact h

theorem QueueCore.deliver {s : State} (h : QueueCore s) (c : Copy) (v : BitVec 16) (full : Bool) :
    QueueCore (s.deliver c v full) := by
  have hw : QueueCore (s.writeResult c v full) := by
    have h1 : QueueCore (s.setSlot c.dest (s.resultRecord c v full)) := h.of_eq rfl rfl
    unfold State.writeResult
    simp only
    split
    · have hsh := Shrinks.setEntry (s := s.setSlot c.dest (s.resultRecord c v full)) (e := c.entry)
        (x := { s.entry c.entry with overrunPending := false }) fun _ hi => ⟨hi, rfl⟩
      exact h1.mono hsh.queue hsh.kept
    · exact h1
  refine QueueCore.evaluateAll ?_ _ _
  unfold State.completionNotice
  split
  · exact hw.of_eq rfl rfl
  · exact hw

theorem QueueCore.decideChain {s : State} (h : QueueCore s) (c : Copy) : QueueLaw (s.decideChain c) := by
  have hb : ∀ l, QueueCore (s.chainBroken l) := fun l => h.of_eq rfl rfl
  unfold State.decideChain
  split
  · exact h.workEnds
  · split
    · split
      · exact (hb _).workEnds
      · exact h.workEnds
    · split
      · split
        · exact (hb _).workEnds
        · exact (h.of_eq (by rfl) (by rfl)).busy Converter.noConfusion
      · exact h.workEnds

/-! ### Proposals -/

theorem QueueLaw.install {s : State} (h : QueueLaw s) (x : Subject) : QueueLaw (s.install x) := by
  cases x with
  | entrySet e c =>
    show QueueLaw (s.installEntry e c)
    unfold State.installEntry
    split
    · rename_i hs
      exact h.shrinks (.setEntry fun _ hi => absurd hi (by simp [hs, ItemState.inScope]))
    · rename_i hs
      exact h.shrinks (.setEntry fun _ hi => absurd hi (by simp [hs, ItemState.inScope]))
    · exact h.shrinks ((Shrinks.discardTicket s e _).trans
        (.setEntry fun ht _ => absurd ht (no_ticket_discardTicket s e _)))
    · exact h
  | entryRemove e => exact h.shrinks (.leaveScope s e true)
  | monitorSet m c =>
    show QueueLaw (s.installMonitor m c)
    unfold State.installMonitor
    split
    · exact h.shrinks (.of_eq rfl rfl rfl)
    · exact h.shrinks (.of_eq rfl rfl rfl)
    · exact h.shrinks (.of_eq rfl rfl rfl)
    · exact h
  | clockSet r => exact h.startSwitch r
  | monitorRemove m => exact h.shrinks (.of_eq rfl rfl rfl)
  | timerSet k period run => exact h.shrinks (.of_eq rfl rfl rfl)
  | pinSet k edge => exact h.shrinks (.of_eq rfl rfl rfl)
  | agingSet period => exact h.shrinks (.of_eq rfl rfl rfl)
  | windowSet window => exact h.shrinks (.of_eq rfl rfl rfl)

theorem Shrinks.reserve (s : State) (x : Subject) : Shrinks s (s.reserve x) := by
  cases x with
  | entrySet e c =>
    rw [reserve_entrySet]
    split
    · rename_i hs
      exact .setEntry fun _ hi => absurd hi (by simp [hs, ItemState.inScope])
    · exact .refl s
  | monitorSet m c =>
    rw [reserve_monitorSet]
    split
    · exact .of_eq rfl rfl rfl
    · exact .refl s
  | _ => exact .refl s

theorem Shrinks.unreserve (s : State) (x : Subject) : Shrinks s (s.unreserve x) := by
  cases x with
  | entrySet e c =>
    rw [unreserve_entrySet]
    split
    · rename_i hs
      exact .setEntry fun _ hi => absurd hi (by simp [hs, ItemState.inScope])
    · exact .refl s
  | monitorSet m c =>
    rw [unreserve_monitorSet]
    split
    · exact .of_eq rfl rfl rfl
    · exact .refl s
  | _ => exact .refl s

theorem QueueLaw.close {s : State} (h : QueueLaw s) (pr : Proposal) (o : ProposalOutcome) : QueueLaw (s.close pr o) := by
  have h' : QueueLaw (({ s with proposal := none } : State).raise (.proposal pr.id o pr.author) pr.parties) :=
    h.shrinks (.of_eq rfl rfl rfl)
  unfold State.close
  cases o with
  | opened => exact h'
  | adopted => exact h'.install _
  | refused => exact h'.shrinks (.unreserve _ _)
  | expired => exact h'.shrinks (.unreserve _ _)
  | withdrawn => exact h'.shrinks (.unreserve _ _)

theorem QueueLaw.partyLeaves {s : State} (h : QueueLaw s) (p : Port) : QueueLaw (s.partyLeaves p) := by
  unfold State.partyLeaves
  split
  · exact h
  · split
    · exact h.close _ _
    · split
      · split
        · exact h.close _ _
        · exact h.shrinks (.of_eq rfl rfl rfl)
      · exact h

/-! ### Every step -/

theorem Inner.keepsQueueLaw {s t : State} (ha : Inner s t) (h : QueueLaw s) : QueueLaw t := by
  cases ha with
  | request p e => exact (h.core.trigger e _).consult
  | cancel e => exact h.shrinks ⟨List.filter_sublist, fun _ _ hk => ⟨hk, rfl⟩, fun h => h⟩
  | setTimer k x => exact h.shrinks (.of_eq rfl rfl rfl)
  | acceptLevel k l => exact h.shrinks (.of_eq rfl rfl rfl)
  | fanOut tr o => exact h.core.fanOut tr o
  | settled c => exact (h.core.of_eq (by rfl) (by rfl)).busy Converter.noConfusion
  | sampled c => exact (h.core.of_eq (by rfl) (by rfl)).busy Converter.noConfusion
  | completed c => exact (h.core.deliver c _ _).decideChain c
  | calibrated found => exact QueueCore.workEnds (h.core.of_eq (by rfl) (by rfl))
  | locked r => exact QueueCore.switchDone (h.core.of_eq (by rfl) (by rfl)) r
  | qualified r edges =>
    unfold State.qualify
    split
    · exact h.core.switchFailed r _
    · exact QueueCore.switchDone (h.core.of_eq (by rfl) (by rfl)) r
  | timedOut r =>
    unfold State.acquisitionFails
    split
    · exact QueueCore.switchFailed (h.core.of_eq (by rfl) (by rfl)) r _
    · exact h.core.switchFailed r _
    · exact h

theorem Act.keepsQueueLaw {who : Option Port} {s t : State} (ha : Act who s t) (h : QueueLaw s) : QueueLaw t := by
  cases ha with
  | port p y => exact h.shrinks (.of_eq rfl rfl rfl)
  | attach p timeout subs n => exact h.shrinks (.of_eq rfl rfl rfl)
  | detach p detail =>
    have h1 : Shrinks s (s.setPort p (s.port p).leave) := .of_eq rfl rfl rfl
    exact (h.shrinks ((h1.trans (.freeItems _ p)).trans (.raise _ _ _))).partyLeaves p
  | claimEntry p e ha hf =>
    exact h.shrinks (.setEntry fun _ hi => absurd hi (by simp [hf, ItemState.inScope]))
  | writeEntry p e raw c =>
    exact h.shrinks ((Shrinks.discardTicket s e _).trans
      (.setEntry fun ht _ => absurd ht (no_ticket_discardTicket s e _)))
  | releaseEntry p e => exact h.shrinks (.leaveScope s e true)
  | claimMonitor p m => exact h.shrinks (.of_eq rfl rfl rfl)
  | writeMonitor p m => exact h.shrinks (.of_eq rfl rfl rfl)
  | releaseMonitor p m => exact h.shrinks (.of_eq rfl rfl rfl)
  | propose p raw x =>
    unfold State.proposed
    split
    · exact (h.shrinks (t := { s with nextId := s.nextId + 1 }) (.of_eq rfl rfl rfl)).install x
    · exact (h.shrinks (t := { s with proposal := _, nextId := s.nextId + 1 }) (.of_eq rfl rfl rfl)).shrinks
        ((Shrinks.reserve _ x).trans (.raise _ _ _))
  | vote p pr accept =>
    unfold State.counted
    split
    · split
      · exact h.close (pr.acceptedBy p) .adopted
      · exact h.shrinks (.of_eq rfl rfl rfl)
    · exact h.close pr .refused
  | close pr o => exact h.close pr o
  | inner ha => exact ha.keepsQueueLaw h

theorem queueLaw_of_no_ticket {s : State} (h : s.queue = []) : QueueLaw s where
  room := by rw [h]; exact Nat.zero_le _
  once := by rw [h]; exact List.nodup_nil
  scope := by simp [h]
  cls := by simp [h]
  quota p := by rw [State.waiting, h]; exact Nat.zero_le _
  idle _ := h

/-- Settles O54: each act keeps the law, with a consultation after every act that can add a ticket or rest the converter. -/
theorem stepKeepsQueueLaw : Obligations.StepKeepsQueueLaw := by
  intro s t hs h
  refine step_keeps (P := QueueLaw) ?change ?reset ?pending ?spend ?tick ?edge hs h
  case change =>
    intro who s t hc hs
    cases hc with
    | same => exact hs
    | frame p f => exact hs.shrinks (.of_eq rfl rfl rfl)
    | release hh =>
      rw [resetReleaseEvent, if_pos hh]
      exact (hs.core.of_eq (by rfl) (by rfl)).busy Converter.noConfusion
    | acts _ h => exact h.keep (fun _ _ ha => ha.keepsQueueLaw) hs
  case reset => exact fun _ _ _ => queueLaw_of_no_ticket rfl
  case pending => exact fun _ _ hs => hs.shrinks (.of_eq rfl rfl rfl)
  case spend => exact fun _ hs => hs.shrinks (.of_eq rfl rfl rfl)
  case edge => exact fun _ _ _ hs => hs.shrinks (.of_eq rfl rfl rfl)
  case tick =>
    intro s hh _ hs
    rw [State.tick, if_neg (by simp [hh])]
    exact hs.shrinks (.of_eq rfl rfl rfl)

end Sys2Proof.Machine
end

section
/-! What triggers, evaluations, conversions and clock switches leave of the Plan Table, the monitors and the proposals: entries
keep all but their counts, monitors all but their evaluation state. -/

namespace Sys2Proof.Machine

/-! ### A monitor's candidate -/

/-- The candidate is a zone other than the accepted one, fewer times in a row than the persistence (R117). -/
def Monitor.CandidateLaw (x : Monitor) : Prop :=
  ∀ z n, x.candidate = some (z, n) →
    x.zone ≠ none ∧ x.zone ≠ some z ∧ 1 ≤ n ∧ n < persistCount x.contents.persist

theorem Monitor.CandidateLaw.of_none {x : Monitor} (h : x.candidate = none) : x.CandidateLaw :=
  fun _ _ hc => absurd (h.symm.trans hc) (by simp)

theorem one_le_persistCount (x : Persistence) : 1 ≤ persistCount x := by cases x <;> decide

/-- One more evaluation in a row does not go beyond the persistence. -/
theorem Monitor.CandidateLaw.runLength_le {x : Monitor} (h : x.CandidateLaw) (raw : Zone) :
    1 ≤ runLength x.candidate raw ∧ runLength x.candidate raw ≤ persistCount x.contents.persist := by
  unfold runLength
  split
  · rename_i z k hk
    split
    · have := (h z k hk).2.2
      omega
    · exact ⟨Nat.le_refl 1, one_le_persistCount _⟩
  · exact ⟨Nat.le_refl 1, one_le_persistCount _⟩

/-- An evaluation keeps what is said of the candidate. -/
theorem Monitor.CandidateLaw.evaluate {x : Monitor} (h : x.CandidateLaw) (v : Int) :
    (Machine.evaluate x v).1.CandidateLaw := by
  rcases hz : x.zone with _ | old
  · rw [evaluate_of_unknown hz]
    exact .of_none rfl
  · by_cases hr : rawZone x.contents (some old) v = old
    · rw [evaluate_of_same hz hr]
      exact .of_none rfl
    · by_cases hn : runLength x.candidate (rawZone x.contents (some old) v) = persistCount x.contents.persist
      · rw [evaluate_of_persistent hz rfl hr hn]
        exact .of_none rfl
      · rw [evaluate_of_not_persistent hz rfl hr hn]
        intro z n hc
        obtain ⟨rfl, rfl⟩ : rawZone x.contents (some old) v = z ∧ _ = n := by simpa using hc
        obtain ⟨h1, h2⟩ := h.runLength_le (rawZone x.contents (some old) v)
        exact ⟨by simp [hz], by simpa [hz] using Ne.symm hr, h1, lt_of_le_of_ne h2 hn⟩

/-! ### Quiet changes -/

/-- A monitor is the other one but for its evaluation state. -/
def Monitor.SameButZone (x y : Monitor) : Prop :=
  x = { y with zone := x.zone, candidate := x.candidate, crossings := x.crossings }

theorem Monitor.SameButZone.refl (x : Monitor) : x.SameButZone x := rfl

theorem Monitor.SameButZone.trans {x y z : Monitor} (h1 : x.SameButZone y) (h2 : y.SameButZone z) :
    x.SameButZone z := by
  rcases x; rcases y; rcases z
  simp_all [Monitor.SameButZone]

/-- From `s` to `t` no entry changes but in its counts, no monitor but in its evaluation state, and neither in an item out of
every scope; the proposals stay, and no clock switch begins. -/
structure Quiet (s t : State) : Prop where
  entry : ∀ e, (t.entry e).SameButCounts (s.entry e)
  counts : ∀ e, (s.entry e).state.inScope = false → (t.entry e).overruns = (s.entry e).overruns ∧
    (t.entry e).drops = (s.entry e).drops ∧ ((t.entry e).overrunPending = true → (s.entry e).overrunPending = true)
  monitor : ∀ m, (t.monitor m).SameButZone (s.monitor m)
  outside : ∀ m, (s.monitor m).state.inScope = false → t.monitor m = s.monitor m
  candidate : ∀ m, (s.monitor m).CandidateLaw → (t.monitor m).CandidateLaw
  proposal : t.proposal = s.proposal
  phase : s.clock.phase = .none → t.clock.phase = .none

theorem Entry.SameButCounts.state {x y : Entry} (h : x.SameButCounts y) : x.state = y.state := by rw [h]

theorem Entry.SameButCounts.contents {x y : Entry} (h : x.SameButCounts y) : x.contents = y.contents := by rw [h]

theorem Monitor.SameButZone.state {x y : Monitor} (h : x.SameButZone y) : x.state = y.state := by rw [h]

theorem Monitor.SameButZone.contents {x y : Monitor} (h : x.SameButZone y) : x.contents = y.contents := by rw [h]

theorem Quiet.trans {s t u : State} (h1 : Quiet s t) (h2 : Quiet t u) : Quiet s u where
  entry e := (h2.entry e).trans (h1.entry e)
  counts e he := by
    obtain ⟨a1, a2, a3⟩ := h1.counts e he
    obtain ⟨b1, b2, b3⟩ := h2.counts e ((h1.entry e).state ▸ he)
    exact ⟨b1.trans a1, b2.trans a2, fun h => a3 (b3 h)⟩
  monitor m := (h2.monitor m).trans (h1.monitor m)
  outside m hm := (h2.outside m ((h1.monitor m).state ▸ hm)).trans (h1.outside m hm)
  candidate m hm := h2.candidate m (h1.candidate m hm)
  proposal := h2.proposal.trans h1.proposal
  phase h := h2.phase (h1.phase h)

/-- A change elsewhere. -/
theorem Quiet.of_eq {s t : State} (he : t.entries = s.entries) (hm : t.monitors = s.monitors)
    (hp : t.proposal = s.proposal) (hc : s.clock.phase = .none → t.clock.phase = .none) : Quiet s t := by
  have he' : ∀ e, t.entry e = s.entry e := fun e => by rw [State.entry, State.entry, he]
  have hm' : ∀ m, t.monitor m = s.monitor m := fun m => by rw [State.monitor, State.monitor, hm]
  exact ⟨fun e => he' e ▸ .refl _, fun e _ => by rw [he' e]; exact ⟨rfl, rfl, id⟩, fun m => hm' m ▸ .refl _,
    fun m _ => hm' m, fun m h => (hm' m).symm ▸ h, hp, hc⟩

theorem Quiet.refl (s : State) : Quiet s s := .of_eq rfl rfl rfl id

theorem Quiet.raise (s : State) (n : Notice) (who : PortSet) : Quiet s (s.raise n who) := .of_eq rfl rfl rfl id

/-- An entry's counts. -/
theorem Quiet.setEntry {s : State} {e : EntryId} {x : Entry} (h : x.SameButCounts (s.entry e))
    (hc : (s.entry e).state.inScope = false → x.overruns = (s.entry e).overruns ∧ x.drops = (s.entry e).drops ∧
      (x.overrunPending = true → (s.entry e).overrunPending = true)) : Quiet s (s.setEntry e x) where
  entry := (Reaches.setEntry s e h).entry
  counts i hi := by
    rw [State.entry_setEntry]
    split
    · rename_i hie
      rw [hie] at hi ⊢
      exact hc hi
    · exact ⟨rfl, rfl, id⟩
  monitor _ := .refl _
  outside _ _ := rfl
  candidate _ h := h
  proposal := rfl
  phase := id

theorem Quiet.trigger (s : State) (e : EntryId) (o : Origin) : Quiet s (s.trigger e o).1 := by
  unfold State.trigger
  split
  · rename_i hs
    have hx : ∀ x : Entry, x.SameButCounts (s.entry e) → Quiet s (s.setEntry e x) :=
      fun x h => .setEntry h fun hn => absurd (hs.symm.trans hn) (by simp)
    split
    · exact hx _ rfl
    · split
      · exact .refl s
      · split
        · show Quiet s (s.dropTrigger e o)
          unfold State.dropTrigger
          split
          · exact .refl s
          · exact (hx { s.entry e with drops := satInc (s.entry e).drops } rfl).trans (.raise _ _ _)
        · exact .of_eq rfl rfl rfl id
  · exact .refl s

theorem Quiet.triggerAll (s : State) (es : List EntryId) (o : Origin) : Quiet s (s.triggerAll es o) := by
  unfold State.triggerAll
  induction es generalizing s with
  | nil => exact .refl s
  | cons e es ih => exact (Quiet.trigger s e o).trans (ih _)

theorem Quiet.consult (s : State) : Quiet s s.consult := by
  refine .of_eq ?_ ?_ ?_ fun h => ?_ <;> rw [consult_frame]
  exact h

theorem Quiet.crossing (s : State) (m : MonId) (old new : Zone) (v : BitVec 16) : Quiet s (s.crossing m old new v) := by
  unfold State.crossing
  split
  · simp only
    split
    · exact .raise _ _ _
    · exact (Quiet.raise _ _ _).trans (.trigger _ _ _)
  · exact .refl s

theorem Quiet.evaluated {s : State} {m : MonId} (hs : (s.monitor m).state.inScope = true) (v : Int) :
    Quiet s (s.setMonitor m (evaluate (s.monitor m) v).1) where
  entry _ := .refl _
  counts _ _ := ⟨rfl, rfl, id⟩
  monitor i := by
    rw [State.monitor_setMonitor]
    split
    · rename_i h
      rw [h]
      exact evaluate_frame _ _
    · exact .refl _
  outside i hi := by
    rw [State.monitor_setMonitor, if_neg]
    intro h
    rw [h] at hi
    exact absurd (hs.symm.trans hi) (by simp)
  candidate i hi := by
    rw [State.monitor_setMonitor]
    split
    · rename_i h
      rw [h] at hi
      exact hi.evaluate v
    · exact hi
  proposal := rfl
  phase := id

theorem Quiet.evaluateAll (s : State) (i : SlotId) (v : BitVec 16) : Quiet s (s.evaluateAll i v) := by
  unfold State.evaluateAll
  generalize List.finRange 12 = l
  induction l generalizing s with
  | nil => exact .refl s
  | cons m l ih =>
    refine Quiet.trans ?_ (ih _)
    unfold State.evaluateOne
    split
    · rename_i h
      have hm : Quiet s (s.setMonitor m (evaluate (s.monitor m) v.toInt).1) :=
        .evaluated ((Bool.and_eq_true _ _ ▸ h).1) _
      simp only
      split
      · exact hm.trans (.crossing _ _ _ _ _)
      · exact hm
    · exact .refl s

theorem Quiet.deliver (s : State) (c : Copy) (v : BitVec 16) (full : Bool) : Quiet s (s.deliver c v full) := by
  have hw : Quiet s (s.writeResult c v full) := by
    have h1 : Quiet s (s.setSlot c.dest (s.resultRecord c v full)) := .of_eq rfl rfl rfl id
    unfold State.writeResult
    simp only
    split
    · exact h1.trans (.setEntry (x := { s.entry c.entry with overrunPending := false }) rfl
        fun _ => ⟨rfl, rfl, fun h => absurd h Bool.false_ne_true⟩)
    · exact h1
  refine hw.trans (Quiet.trans ?_ (.evaluateAll _ _ _))
  unfold State.completionNotice
  split
  · exact .raise _ _ _
  · exact .refl _

/-! ### The converter and the Sampling Clock -/

theorem Quiet.switchDone (s : State) (r : ClockSetting) : Quiet s (s.switchDone r) :=
  .of_eq rfl rfl rfl fun _ => rfl

theorem Quiet.switchFailed (s : State) (r : ClockSetting) (c : SwitchCause) : Quiet s (s.switchFailed r c) := by
  refine Quiet.trans (t := { s with
    clock := { s.clock with phase := .none, deadline := none, run := none }, converter := .idle, work := none })
    (.of_eq rfl rfl rfl fun _ => rfl) ((Quiet.consult _).trans (.raise _ _ _))

theorem Quiet.endDraining {s : State} (h : s.clock.phase ≠ .none) (r : ClockSetting) : Quiet s (s.endDraining r) := by
  have h' : Quiet s { s with converter := .held, work := none, clock := { s.clock with phase := .acquiring r } } :=
    .of_eq rfl rfl rfl fun hn => absurd hn h
  unfold State.endDraining
  refine h'.trans ?_
  unfold State.acquire
  split
  · split
    · exact .switchFailed _ _ _
    · exact .switchDone _ _
  · split
    · exact .switchDone _ _
    · exact .of_eq rfl rfl rfl id
    · exact .of_eq rfl rfl rfl id

theorem Quiet.workEnds (s : State) : Quiet s s.workEnds := by
  have h : Quiet s ({ s with converter := .idle, work := none } : State).consult :=
    Quiet.trans (t := { s with converter := .idle, work := none }) (.of_eq rfl rfl rfl id) (.consult _)
  unfold State.workEnds
  split
  · rename_i hp
    exact .endDraining (by simp [hp]) _
  · exact h
  · exact h

theorem Quiet.decideChain (s : State) (c : Copy) : Quiet s (s.decideChain c) := by
  have hb : ∀ l, Quiet s (s.chainBroken l).workEnds := fun l => (Quiet.raise _ _ _).trans (.workEnds _)
  unfold State.decideChain
  split
  · exact .workEnds s
  · split
    · split
      · exact hb _
      · exact .workEnds s
    · split
      · split
        · exact hb _
        · exact .of_eq rfl rfl rfl id
      · exact .workEnds s

theorem Inner.quiet {s t : State} (h : Inner s t) : Quiet s t := by
  cases h with
  | request p e => exact (Quiet.trigger s e _).trans (.consult _)
  | cancel e => exact .of_eq rfl rfl rfl id
  | setTimer k x => exact .of_eq rfl rfl rfl id
  | acceptLevel k l => exact .of_eq rfl rfl rfl id
  | fanOut tr o => exact (Quiet.triggerAll s _ o).trans (.consult _)
  | settled c => exact .of_eq rfl rfl rfl id
  | sampled c => exact .of_eq rfl rfl rfl id
  | completed c => exact (Quiet.deliver s c _ _).trans (.decideChain _ c)
  | calibrated found =>
    exact Quiet.trans (t := { s with calibration := some found }) (.of_eq rfl rfl rfl id) (.workEnds _)
  | locked r =>
    exact Quiet.trans (t := { s with clock := { s.clock with loop := .locked, deadline := none } })
      (.of_eq rfl rfl rfl id) (.switchDone _ r)
  | qualified r edges =>
    unfold State.qualify
    split
    · exact .switchFailed s r _
    · exact Quiet.trans (t := { s with clock := { s.clock with measured := some edges, deadline := none } })
        (.of_eq rfl rfl rfl id) (.switchDone _ r)
  | timedOut r =>
    unfold State.acquisitionFails
    split
    · exact Quiet.trans (t := { s with clock := { s.clock with loop := .stopped } })
        (.of_eq rfl rfl rfl id) (.switchFailed _ r _)
    · exact .switchFailed s r _
    · exact .refl s

end Sys2Proof.Machine
end

section
/-! The law of private ownership (R1, R3, R117, R119) and the law of contents (R1, R117, R120). -/

namespace Sys2Proof.Machine

/-! ### The freeing of a port's items -/

theorem freeEntries_frame (s : State) (p : Port) :
    s.freeEntries p = { s with
      entries := (s.freeEntries p).entries, monitors := (s.freeEntries p).monitors
      queue := (s.freeEntries p).queue, ports := (s.freeEntries p).ports } := by
  unfold State.freeEntries
  generalize List.finRange 32 = l
  induction l generalizing s with
  | nil => rfl
  | cons e l ih => exact plan_trans (freeEntry_frame s p e) (ih _)

theorem freeItems_frame (s : State) (p : Port) :
    s.freeItems p = { s with
      entries := (s.freeItems p).entries, monitors := (s.freeItems p).monitors
      queue := (s.freeItems p).queue, ports := (s.freeItems p).ports } :=
  plan_trans (t := s.freeMonitors p) rfl (freeEntries_frame _ p)

theorem owns_freeEntries_fold (p : Port) (l : List EntryId) (s : State) (e : EntryId) :
    (l.foldl (State.freeEntry p) s).owns p e ↔ s.owns p e ∧ e ∉ l := by
  induction l generalizing s with
  | nil => simp
  | cons x l ih => rw [List.foldl_cons, ih, owns_freeEntry, List.mem_cons, not_or, and_assoc]

theorem not_owns_freeItems (s : State) (p : Port) (e : EntryId) : ¬(s.freeItems p).owns p e :=
  fun h => ((owns_freeEntries_fold p _ _ e).1 h).2 (List.mem_finRange e)

/-- The monitors that a port's entries leave keep their states. -/
theorem state_monitor_leaveScope (s : State) (e : EntryId) (b : Bool) (m : MonId) :
    ((s.leaveScope e b).monitor m).state = (s.monitor m).state := by
  rw [monitor_leaveScope]
  split <;> rfl

theorem state_monitor_freeEntries (s : State) (p : Port) (m : MonId) :
    ((s.freeEntries p).monitor m).state = (s.monitor m).state := by
  unfold State.freeEntries
  generalize List.finRange 32 = l
  induction l generalizing s with
  | nil => rfl
  | cons e l ih =>
    refine (ih _).trans ?_
    unfold State.freeEntry
    split
    · exact state_monitor_leaveScope s e false m
    · rfl

theorem not_owned_monitor_freeItems (s : State) (p : Port) (m : MonId) :
    ((s.freeItems p).monitor m).state ≠ .ownedBy p := by
  rw [State.freeItems, state_monitor_freeEntries, State.monitor_freeMonitors]
  split
  · exact ItemState.noConfusion
  · assumption

/-! ### Ownership -/

/-- From `s` to `t` no item comes to be PRIVATE, and every attached port stays attached. -/
structure Disowns (s t : State) : Prop where
  entry : ∀ e p, (t.entry e).state = .ownedBy p → (s.entry e).state = .ownedBy p
  monitor : ∀ m p, (t.monitor m).state = .ownedBy p → (s.monitor m).state = .ownedBy p
  attached : ∀ p, (s.port p).attached = true → (t.port p).attached = true

theorem entryCount_le {s t : State} {p : Port}
    (h : ∀ e, (t.entry e).state = .ownedBy p → (s.entry e).state = .ownedBy p) : t.entryCount p ≤ s.entryCount p := by
  rw [State.entryCount_eq, State.entryCount_eq, ← List.countP_eq_length_filter, ← List.countP_eq_length_filter]
  exact List.countP_mono_left fun e _ he => by simpa using h e (by simpa using he)

theorem monitorCount_le {s t : State} {p : Port}
    (h : ∀ m, (t.monitor m).state = .ownedBy p → (s.monitor m).state = .ownedBy p) :
    t.monitorCount p ≤ s.monitorCount p := by
  rw [State.monitorCount_eq, State.monitorCount_eq, ← List.countP_eq_length_filter, ← List.countP_eq_length_filter]
  exact List.countP_mono_left fun m _ hm => by simpa using h m (by simpa using hm)

theorem OwnerLaw.disowns {s t : State} (h : OwnerLaw s) (hd : Disowns s t) : OwnerLaw t where
  entries e p he := hd.attached p (h.entries e p (hd.entry e p he))
  monitors m p hm := hd.attached p (h.monitors m p (hd.monitor m p hm))
  entryQuota p := (entryCount_le fun e => hd.entry e p).trans (h.entryQuota p)
  monitorQuota p := (monitorCount_le fun m => hd.monitor m p).trans (h.monitorQuota p)

theorem Disowns.trans {s t u : State} (h1 : Disowns s t) (h2 : Disowns t u) : Disowns s u where
  entry e _ h := h1.entry e _ (h2.entry e _ h)
  monitor m _ h := h1.monitor m _ (h2.monitor m _ h)
  attached p h := h2.attached p (h1.attached p h)

/-- A change elsewhere. -/
theorem Disowns.of_eq {s t : State} (he : t.entries = s.entries) (hm : t.monitors = s.monitors)
    (hp : t.ports = s.ports) : Disowns s t where
  entry e _ h := by rwa [State.entry, he] at h
  monitor m _ h := by rwa [State.monitor, hm] at h
  attached q h := by rwa [State.port, hp]

theorem Disowns.refl (s : State) : Disowns s s := .of_eq rfl rfl rfl

theorem Disowns.quiet {s t : State} (hq : Quiet s t) (ht : Tells s t) : Disowns s t where
  entry e _ h := (hq.entry e).state ▸ h
  monitor m _ h := (hq.monitor m).state ▸ h
  attached p h := (ht.port p).attached.trans h

theorem Disowns.raise (s : State) (n : Notice) (who : PortSet) : Disowns s (s.raise n who) :=
  .quiet (.raise s n who) (.raise s n who)

theorem Disowns.setEntry {s : State} {e : EntryId} {x : Entry}
    (h : ∀ p, x.state = .ownedBy p → (s.entry e).state = .ownedBy p) : Disowns s (s.setEntry e x) where
  entry i p hi := by
    rw [State.entry_setEntry] at hi
    split at hi
    · rename_i hie
      exact hie ▸ h p hi
    · exact hi
  monitor _ _ := id
  attached _ := id

theorem Disowns.setMonitor {s : State} {m : MonId} {x : Monitor}
    (h : ∀ p, x.state = .ownedBy p → (s.monitor m).state = .ownedBy p) : Disowns s (s.setMonitor m x) where
  entry _ _ := id
  monitor i p hi := by
    rw [State.monitor_setMonitor] at hi
    split at hi
    · rename_i him
      exact him ▸ h p hi
    · exact hi
  attached _ := id

theorem Disowns.discardTicket (s : State) (e : EntryId) (c : Option DiscardCause) : Disowns s (s.discardTicket e c) where
  entry i p h := by rwa [entry_discardTicket] at h
  monitor m p h := by rwa [monitor_discardTicket] at h
  attached p h := ((Tells.discardTicket s e c).port p).attached.trans h

theorem Disowns.leaveScope (s : State) (e : EntryId) (b : Bool) : Disowns s (s.leaveScope e b) where
  entry i p h := by
    rw [entry_leaveScope] at h
    split at h
    · exact absurd h ItemState.noConfusion
    · split at h <;> exact h
  monitor m p h := by rwa [state_monitor_leaveScope] at h
  attached p h := ((Tells.leaveScope s e b).port p).attached.trans h

theorem Disowns.freeEntries (s : State) (p : Port) : Disowns s (s.freeEntries p) := by
  unfold State.freeEntries
  generalize List.finRange 32 = l
  induction l generalizing s with
  | nil => exact .refl s
  | cons e l ih =>
    refine Disowns.trans ?_ (ih _)
    unfold State.freeEntry
    split
    · exact .leaveScope s e false
    · exact .refl s

theorem Disowns.freeMonitors (s : State) (p : Port) : Disowns s (s.freeMonitors p) where
  entry _ _ := id
  monitor m q h := by
    rw [State.monitor_freeMonitors] at h
    split at h
    · exact absurd h ItemState.noConfusion
    · exact h
  attached _ := id

theorem Disowns.freeItems (s : State) (p : Port) : Disowns s (s.freeItems p) :=
  (Disowns.freeMonitors s p).trans (.freeEntries _ p)

theorem Disowns.install (s : State) (x : Subject) : Disowns s (s.install x) := by
  cases x with
  | entrySet e c =>
    show Disowns s (s.installEntry e c)
    unfold State.installEntry
    split
    · exact .setEntry fun p hp => absurd hp (by simp [Entry.install])
    · exact .setEntry fun p hp => absurd hp (by simp [Entry.install])
    · refine (Disowns.discardTicket s e _).trans (.setEntry fun p hp => ?_)
      rw [entry_discardTicket]
      exact hp
    · exact .refl s
  | entryRemove e => exact .leaveScope s e true
  | monitorSet m c =>
    show Disowns s (s.installMonitor m c)
    unfold State.installMonitor
    split
    · exact .setMonitor fun p hp => absurd hp (by simp [Monitor.install])
    · exact .setMonitor fun p hp => absurd hp (by simp [Monitor.install])
    · exact .setMonitor fun p hp => absurd hp (by simp [Monitor.install])
    · exact .refl s
  | monitorRemove m => exact .setMonitor fun p hp => absurd hp ItemState.noConfusion
  | clockSet r =>
    have hs := Switches.startSwitch s r
    show Disowns s (s.startSwitch r)
    refine ⟨fun e p h => hs.entry e ▸ h, fun m p h => ?_, fun p h => (hs.port p).attached.trans h⟩
    have hm : (s.startSwitch r).monitor m = s.monitor m := by rw [hs.rest]; rfl
    exact hm ▸ h
  | timerSet k period run => exact .of_eq rfl rfl rfl
  | pinSet k edge => exact .of_eq rfl rfl rfl
  | agingSet period => exact .of_eq rfl rfl rfl
  | windowSet window => exact .of_eq rfl rfl rfl

theorem Disowns.reserve (s : State) (x : Subject) : Disowns s (s.reserve x) := by
  cases x with
  | entrySet e c =>
    rw [reserve_entrySet]
    split
    · exact .setEntry fun p hp => absurd hp ItemState.noConfusion
    · exact .refl s
  | monitorSet m c =>
    rw [reserve_monitorSet]
    split
    · exact .setMonitor fun p hp => absurd hp ItemState.noConfusion
    · exact .refl s
  | _ => exact .refl s

theorem Disowns.unreserve (s : State) (x : Subject) : Disowns s (s.unreserve x) := by
  cases x with
  | entrySet e c =>
    rw [unreserve_entrySet]
    split
    · exact .setEntry fun p hp => absurd hp ItemState.noConfusion
    · exact .refl s
  | monitorSet m c =>
    rw [unreserve_monitorSet]
    split
    · exact .setMonitor fun p hp => absurd hp ItemState.noConfusion
    · exact .refl s
  | _ => exact .refl s

theorem Disowns.close (s : State) (pr : Proposal) (o : ProposalOutcome) : Disowns s (s.close pr o) := by
  have h : Disowns s (({ s with proposal := none } : State).raise (.proposal pr.id o pr.author) pr.parties) :=
    Disowns.trans (t := { s with proposal := none }) (.of_eq rfl rfl rfl) (.raise _ _ _)
  unfold State.close
  cases o with
  | opened => exact h
  | adopted => exact h.trans (.install _ _)
  | refused => exact h.trans (.unreserve _ _)
  | expired => exact h.trans (.unreserve _ _)
  | withdrawn => exact h.trans (.unreserve _ _)

theorem Disowns.partyLeaves (s : State) (p : Port) : Disowns s (s.partyLeaves p) := by
  unfold State.partyLeaves
  split
  · exact .refl s
  · split
    · exact .close s _ _
    · split
      · split
        · exact .close s _ _
        · exact .of_eq rfl rfl rfl
      · exact .refl s

theorem Disowns.proposed (s : State) (p : Port) (x : Subject) : Disowns s (s.proposed p x).1 := by
  unfold State.proposed
  split
  · exact Disowns.trans (t := { s with nextId := s.nextId + 1 }) (.of_eq rfl rfl rfl) (.install _ x)
  · exact Disowns.trans (t := { s with proposal := _, nextId := s.nextId + 1 }) (.of_eq rfl rfl rfl)
      ((Disowns.reserve _ x).trans (.raise _ _ _))

theorem Disowns.counted (s : State) (pr : Proposal) (p : Port) (accept : Bool) : Disowns s (s.counted pr p accept).1 := by
  unfold State.counted
  split
  · split
    · exact Disowns.close s (pr.acceptedBy p) .adopted
    · exact .of_eq rfl rfl rfl
  · exact Disowns.close s pr .refused

/-- A port leaves that owns nothing any more. -/
theorem OwnerLaw.of_left {s u : State} (h : OwnerLaw s) {p : Port} (hd : Disowns (s.setPort p (s.port p).leave) u)
    (he : ∀ e, ¬u.owns p e) (hm : ∀ m, (u.monitor m).state ≠ .ownedBy p) : OwnerLaw u := by
  have hatt : ∀ q, q ≠ p → (s.port q).attached = true → (u.port q).attached = true := by
    intro q hq ha
    refine hd.attached q ?_
    rw [State.port_setPort, if_neg hq]
    exact ha
  have hce : ∀ q, u.entryCount q ≤ s.entryCount q := fun q => entryCount_le fun e => hd.entry e q
  have hcm : ∀ q, u.monitorCount q ≤ s.monitorCount q := fun q => monitorCount_le fun m => hd.monitor m q
  refine ⟨fun e q hq => ?_, fun m q hq => ?_, fun q => (hce q).trans (h.entryQuota q),
    fun q => (hcm q).trans (h.monitorQuota q)⟩
  · exact hatt q (fun hc => he e (hc ▸ hq)) (h.entries e q (hd.entry e q hq))
  · exact hatt q (fun hc => hm m (hc ▸ hq)) (h.monitors m q (hd.monitor m q hq))

/-- A session end, before the Proposal Slot is told. -/
theorem OwnerLaw.leave {s : State} (h : OwnerLaw s) (p : Port) :
    OwnerLaw ((s.setPort p (s.port p).leave).freeItems p) :=
  h.of_left (.freeItems _ p) (not_owns_freeItems _ p) (not_owned_monitor_freeItems _ p)

theorem entryCount_setEntry_le (s : State) (e : EntryId) (x : Entry) (p : Port) :
    (s.setEntry e x).entryCount p ≤ s.entryCount p + 1 := by
  simp only [State.entryCount, State.setEntry, Table.set]
  rw [List.countP_set (by rw [s.entries.size]; exact e.isLt)]
  have : (if (x.state == .ownedBy p) = true then 1 else 0) ≤ 1 := by split <;> omega
  omega

theorem monitorCount_setMonitor_le (s : State) (m : MonId) (x : Monitor) (p : Port) :
    (s.setMonitor m x).monitorCount p ≤ s.monitorCount p + 1 := by
  simp only [State.monitorCount, State.setMonitor, Table.set]
  rw [List.countP_set (by rw [s.monitors.size]; exact m.isLt)]
  have : (if (x.state == .ownedBy p) = true then 1 else 0) ≤ 1 := by split <;> omega
  omega

/-- A claim by an attached port below its quota. -/
theorem OwnerLaw.claimEntry {s : State} (h : OwnerLaw s) {p : Port} {e : EntryId} {x : Entry}
    (ha : (s.port p).attached = true) (hq : s.entryCount p < 16) (hx : x.state = .ownedBy p) :
    OwnerLaw (s.setEntry e x) where
  entries i q hi := by
    rw [State.entry_setEntry] at hi
    split at hi
    · have : p = q := by simpa [hx] using hi
      exact this ▸ ha
    · exact h.entries i q hi
  monitors := h.monitors
  entryQuota q := by
    by_cases hqp : q = p
    · subst hqp
      exact (entryCount_setEntry_le s e x q).trans hq
    · refine (entryCount_le fun i hi => ?_).trans (h.entryQuota q)
      rw [State.entry_setEntry] at hi
      split at hi
      · have : p = q := by simpa [hx] using hi
        exact absurd this.symm hqp
      · exact hi
  monitorQuota := h.monitorQuota

theorem OwnerLaw.claimMonitor {s : State} (h : OwnerLaw s) {p : Port} {m : MonId} {x : Monitor}
    (ha : (s.port p).attached = true) (hq : s.monitorCount p < 6) (hx : x.state = .ownedBy p) :
    OwnerLaw (s.setMonitor m x) where
  entries := h.entries
  monitors i q hi := by
    rw [State.monitor_setMonitor] at hi
    split at hi
    · have : p = q := by simpa [hx] using hi
      exact this ▸ ha
    · exact h.monitors i q hi
  entryQuota := h.entryQuota
  monitorQuota q := by
    by_cases hqp : q = p
    · subst hqp
      exact (monitorCount_setMonitor_le s m x q).trans hq
    · refine (monitorCount_le fun i hi => ?_).trans (h.monitorQuota q)
      rw [State.monitor_setMonitor] at hi
      split at hi
      · have : p = q := by simpa [hx] using hi
        exact absurd this.symm hqp
      · exact hi

/-- A port's record changes that stays attached if it was. -/
theorem Disowns.setPort {s : State} {p : Port} {y : PortState} (h : (s.port p).attached = true → y.attached = true) :
    Disowns s (s.setPort p y) where
  entry _ _ := id
  monitor _ _ := id
  attached q hq := by
    rw [State.port_setPort]
    split
    · rename_i hqp
      exact h (hqp ▸ hq)
    · exact hq

theorem Act.keepsOwnerLaw {who : Option Port} {s t : State} (ha : Act who s t) (h : OwnerLaw s) : OwnerLaw t := by
  cases ha with
  | port p y hw hatt => exact h.disowns (.setPort fun ha => hatt.trans ha)
  | attach p timeout subs n => exact h.disowns ((Disowns.setPort fun _ => rfl).trans (.raise _ _ _))
  | detach p detail => exact (h.leave p).disowns ((Disowns.raise _ _ _).trans (.partyLeaves _ p))
  | claimEntry p e ha hf hq => exact h.claimEntry ha hq rfl
  | writeEntry p e raw c =>
    refine h.disowns ((Disowns.discardTicket s e _).trans (.setEntry fun q hq => ?_))
    rw [entry_discardTicket]
    exact hq
  | releaseEntry p e => exact h.disowns (.leaveScope s e true)
  | claimMonitor p m ha hf hq => exact h.claimMonitor ha hq rfl
  | writeMonitor p m raw c ho =>
    exact h.disowns (.setMonitor fun q hq => ho.trans hq)
  | releaseMonitor p m => exact h.disowns (.setMonitor fun p hp => absurd hp ItemState.noConfusion)
  | propose p raw x => exact h.disowns (.proposed s p x)
  | vote p pr accept => exact h.disowns (.counted s pr p accept)
  | close pr o => exact h.disowns (.close s pr o)
  | inner hi => exact h.disowns (.quiet hi.quiet hi.tells)

theorem ownerLaw_of_free {s : State} (he : ∀ e, (s.entry e).state = .free) (hm : ∀ m, (s.monitor m).state = .free) :
    OwnerLaw s where
  entries e p h := absurd ((he e).symm.trans h) ItemState.noConfusion
  monitors m p h := absurd ((hm m).symm.trans h) ItemState.noConfusion
  entryQuota p := by simp [State.entryCount_eq, he]
  monitorQuota p := by simp [State.monitorCount_eq, hm]

theorem stepKeepsOwnerLaw {s t : State} (hs : OwnerLaw s) (h : step s = .next t) : OwnerLaw t := by
  refine step_keeps (P := OwnerLaw) ?change ?reset (fun s l hs => hs.disowns (.of_eq rfl rfl rfl))
    (fun s hs => hs.disowns (.of_eq rfl rfl rfl)) ?tick (fun s _ _ hs => hs.disowns (.of_eq rfl rfl rfl)) hs h
  case change =>
    intro who s t hc hs
    cases hc with
    | same => exact hs
    | frame p f => exact hs.disowns (.setPort id)
    | release hh => rw [resetReleaseEvent, if_pos hh]; exact hs.disowns (.of_eq rfl rfl rfl)
    | acts _ h => exact h.keep (fun _ _ ha => ha.keepsOwnerLaw) hs
  case reset =>
    exact fun cause s _ => ownerLaw_of_free (fun e => congrArg Entry.state (Table.get_fill _ e))
      (fun m => congrArg Monitor.state (Table.get_fill _ m))
  case tick =>
    intro s hh _ hs
    rw [State.tick, if_neg (by simp [hh])]
    refine hs.disowns ⟨fun _ _ => id, fun _ _ => id, fun p hp => ?_⟩
    simpa [State.port, PortState.tick] using hp

end Sys2Proof.Machine
end

section
/-! The law of contents (R1, R117, R120): item by item, and with it the limits of an open MONITOR_SET. -/

namespace Sys2Proof.Machine

/-! ### The law item by item -/

/-- An entry out of every scope holds its defaults (R1). -/
def Entry.DefaultsLaw (x : Entry) : Prop :=
  x.state.inScope = false → x.contents = .default ∧ x.overruns = 0 ∧ x.drops = 0 ∧ x.overrunPending = false

/-- The limits are in order (R120). -/
def MonitorContents.LimitsLaw (c : MonitorContents) : Prop := c.low.toInt ≤ c.high.toInt

/-- What the law of contents says of one monitor (R117, R120). -/
structure Monitor.ContentsLaw (x : Monitor) : Prop where
  defaults : x.state.inScope = false →
    x.contents = .default ∧ x.zone = none ∧ x.candidate = none ∧ x.crossings = 0
  limits : x.contents.LimitsLaw
  candidate : x.CandidateLaw

/-- The limits that a subject would install are in order. -/
def Subject.LimitsLaw : Subject → Prop
  | .monitorSet _ c => c.LimitsLaw
  | _ => True

theorem contentsLaw_iff {s : State} : ContentsLaw s ↔ (∀ e, (s.entry e).DefaultsLaw) ∧
    (∀ m, (s.monitor m).ContentsLaw) ∧ ∀ pr, s.proposal = some pr → pr.subject.LimitsLaw := by
  constructor
  · intro h
    refine ⟨h.entry, fun m => ⟨h.monitor m, h.limits m, h.candidate m⟩, fun pr hp => ?_⟩
    rcases hx : pr.subject with _ | _ | ⟨m, c⟩ | _ | _ | _ | _ | _ | _
    case monitorSet => exact h.proposed pr m c hp hx
    all_goals trivial
  · rintro ⟨he, hm, hp⟩
    refine ⟨he, fun m => (hm m).defaults, fun m => (hm m).limits, fun m => (hm m).candidate, fun pr m c h hx => ?_⟩
    have := hp pr h
    rw [hx] at this
    exact this

theorem Entry.DefaultsLaw.of_inScope {x : Entry} (h : x.state.inScope = true) : x.DefaultsLaw :=
  fun hn => absurd (h.symm.trans hn) (by simp)

theorem defaultsLaw_free (r : BitVec 8) : (Entry.free r).DefaultsLaw := fun _ => ⟨rfl, rfl, rfl, rfl⟩

theorem limitsLaw_default : MonitorContents.default.LimitsLaw := by
  show (BitVec.ofInt 16 (-32768)).toInt ≤ (BitVec.ofInt 16 32767).toInt
  decide

theorem contentsLaw_free (r : BitVec 8) : (Monitor.free r).ContentsLaw :=
  ⟨fun _ => ⟨rfl, rfl, rfl, rfl⟩, limitsLaw_default, .of_none rfl⟩

/-- New contents in a scope. -/
theorem contentsLaw_install (x : Monitor) (sc : Scope) {c : MonitorContents} (hc : c.LimitsLaw) (n : BitVec 16) :
    (x.install (.scoped sc) c n).ContentsLaw :=
  ⟨fun hn => absurd hn (by simp [Monitor.install, ItemState.inScope]), hc, .of_none rfl⟩

/-! ### Changes that keep it -/

/-- From `s` to `t` every entry and every monitor keeps its law, and no other subject is open. -/
structure Orders (s t : State) : Prop where
  entry : ∀ e, (s.entry e).DefaultsLaw → (t.entry e).DefaultsLaw
  monitor : ∀ m, (s.monitor m).ContentsLaw → (t.monitor m).ContentsLaw
  proposal : ∀ pr, t.proposal = some pr → ∃ pr', s.proposal = some pr' ∧ pr'.subject = pr.subject

theorem ContentsLaw.orders {s t : State} (h : ContentsLaw s) (ho : Orders s t) : ContentsLaw t := by
  obtain ⟨he, hm, hp⟩ := contentsLaw_iff.1 h
  refine contentsLaw_iff.2 ⟨fun e => ho.entry e (he e), fun m => ho.monitor m (hm m), fun pr ht => ?_⟩
  obtain ⟨pr', hs, hx⟩ := ho.proposal pr ht
  exact hx ▸ hp pr' hs

theorem Orders.trans {s t u : State} (h1 : Orders s t) (h2 : Orders t u) : Orders s u where
  entry e h := h2.entry e (h1.entry e h)
  monitor m h := h2.monitor m (h1.monitor m h)
  proposal pr h := by
    obtain ⟨pr', hp, hx⟩ := h2.proposal pr h
    obtain ⟨pr'', hp', hx'⟩ := h1.proposal pr' hp
    exact ⟨pr'', hp', hx'.trans hx⟩

/-- A change elsewhere. -/
theorem Orders.of_eq {s t : State} (he : t.entries = s.entries) (hm : t.monitors = s.monitors)
    (hp : t.proposal = s.proposal) : Orders s t where
  entry e h := by rwa [State.entry, he]
  monitor m h := by rwa [State.monitor, hm]
  proposal pr h := ⟨pr, hp ▸ h, rfl⟩

theorem Orders.refl (s : State) : Orders s s := .of_eq rfl rfl rfl

theorem Orders.raise (s : State) (n : Notice) (who : PortSet) : Orders s (s.raise n who) := .of_eq rfl rfl rfl

theorem Orders.quiet {s t : State} (hq : Quiet s t) : Orders s t where
  entry e h hn := by
    have hs : (s.entry e).state.inScope = false := (hq.entry e).state ▸ hn
    obtain ⟨h1, h2, h3, h4⟩ := h hs
    obtain ⟨c1, c2, c3⟩ := hq.counts e hs
    refine ⟨(hq.entry e).contents.trans h1, c1.trans h2, c2.trans h3, ?_⟩
    by_contra hc
    exact absurd (h4.symm.trans (c3 (Bool.not_eq_false _ ▸ hc))) (by simp)
  monitor m h := by
    refine ⟨fun hn => ?_, (hq.monitor m).contents ▸ h.limits, hq.candidate m h.candidate⟩
    have hs : (s.monitor m).state.inScope = false := (hq.monitor m).state ▸ hn
    rw [hq.outside m hs]
    exact h.defaults hs
  proposal pr h := ⟨pr, hq.proposal ▸ h, rfl⟩

theorem Orders.setEntry {s : State} {e : EntryId} {x : Entry} (h : (s.entry e).DefaultsLaw → x.DefaultsLaw) :
    Orders s (s.setEntry e x) where
  entry i hi := by
    rw [State.entry_setEntry]
    split
    · rename_i hie
      exact h (hie ▸ hi)
    · exact hi
  monitor _ := id
  proposal pr h := ⟨pr, h, rfl⟩

theorem Orders.setMonitor {s : State} {m : MonId} {x : Monitor} (h : (s.monitor m).ContentsLaw → x.ContentsLaw) :
    Orders s (s.setMonitor m x) where
  entry _ := id
  monitor i hi := by
    rw [State.monitor_setMonitor]
    split
    · rename_i him
      exact h (him ▸ hi)
    · exact hi
  proposal pr h := ⟨pr, h, rfl⟩

theorem Orders.discardTicket (s : State) (e : EntryId) (c : Option DiscardCause) : Orders s (s.discardTicket e c) := by
  refine .of_eq ?_ ?_ ?_ <;> rw [discardTicket_frame]

theorem Orders.leaveScope (s : State) (e : EntryId) (b : Bool) : Orders s (s.leaveScope e b) where
  entry i h := by
    rw [entry_leaveScope]
    split
    · exact defaultsLaw_free _
    · split
      · rename_i hl
        intro hn
        have hd := h hn
        have hnone : (s.entry i).contents.link = none := by rw [hd.1]; rfl
        exact absurd (hnone.symm.trans hl.2) (by simp)
      · exact h
  monitor m h := by
    rw [monitor_leaveScope]
    split
    · rename_i ht
      have hs : (s.monitor m).state.inScope = true := (Bool.and_eq_true _ _ ▸ ht).1
      exact ⟨fun hn => absurd (hs.symm.trans hn) (by simp), h.limits, h.candidate⟩
    · exact h
  proposal pr h := by
    rw [leaveScope_frame] at h
    exact ⟨pr, h, rfl⟩

theorem Orders.freeEntries (s : State) (p : Port) : Orders s (s.freeEntries p) := by
  unfold State.freeEntries
  generalize List.finRange 32 = l
  induction l generalizing s with
  | nil => exact .refl s
  | cons e l ih =>
    refine Orders.trans ?_ (ih _)
    unfold State.freeEntry
    split
    · exact .leaveScope s e false
    · exact .refl s

theorem Orders.freeMonitors (s : State) (p : Port) : Orders s (s.freeMonitors p) where
  entry _ := id
  monitor m h := by
    rw [State.monitor_freeMonitors]
    split
    · exact contentsLaw_free _
    · exact h
  proposal pr h := ⟨pr, h, rfl⟩

theorem Orders.freeItems (s : State) (p : Port) : Orders s (s.freeItems p) :=
  (Orders.freeMonitors s p).trans (.freeEntries _ p)

theorem Orders.install (s : State) {x : Subject} (hx : x.LimitsLaw) : Orders s (s.install x) := by
  cases x with
  | entrySet e c =>
    show Orders s (s.installEntry e c)
    unfold State.installEntry
    split
    · exact .setEntry fun _ => .of_inScope rfl
    · exact .setEntry fun _ => .of_inScope rfl
    · rename_i hs
      exact (Orders.discardTicket s e _).trans (.setEntry fun _ => .of_inScope (by
        show (s.entry e).state.inScope = true
        rw [hs]
        rfl))
    · exact .refl s
  | entryRemove e => exact .leaveScope s e true
  | monitorSet m c =>
    show Orders s (s.installMonitor m c)
    unfold State.installMonitor
    split
    · exact .setMonitor fun _ => contentsLaw_install _ _ hx _
    · exact .setMonitor fun _ => contentsLaw_install _ _ hx _
    · exact .setMonitor fun _ => contentsLaw_install _ _ hx _
    · exact .refl s
  | monitorRemove m => exact .setMonitor fun _ => contentsLaw_free _
  | clockSet r =>
    show Orders s (s.startSwitch r)
    refine .of_eq ?_ ?_ ?_ <;> rw [(Switches.startSwitch s r).rest]
  | timerSet k period run => exact .of_eq rfl rfl rfl
  | pinSet k edge => exact .of_eq rfl rfl rfl
  | agingSet period => exact .of_eq rfl rfl rfl
  | windowSet window => exact .of_eq rfl rfl rfl

/-- An item out of every scope stays so with its contents. -/
theorem Entry.DefaultsLaw.restate {x : Entry} (h : x.DefaultsLaw) (hx : x.state.inScope = false) (st : ItemState) :
    Entry.DefaultsLaw { x with state := st } := fun _ => h hx

theorem Monitor.ContentsLaw.restate {x : Monitor} (h : x.ContentsLaw) (hx : x.state.inScope = false) (st : ItemState) :
    Monitor.ContentsLaw { x with state := st } := ⟨fun _ => h.defaults hx, h.limits, h.candidate⟩

theorem Orders.reserve (s : State) (x : Subject) : Orders s (s.reserve x) := by
  cases x with
  | entrySet e c =>
    rw [reserve_entrySet]
    split
    · rename_i hs
      exact .setEntry fun h => h.restate (by rw [hs]; rfl) _
    · exact .refl s
  | monitorSet m c =>
    rw [reserve_monitorSet]
    split
    · rename_i hs
      exact .setMonitor fun h => h.restate (by rw [hs]; rfl) _
    · exact .refl s
  | _ => exact .refl s

theorem Orders.unreserve (s : State) (x : Subject) : Orders s (s.unreserve x) := by
  cases x with
  | entrySet e c =>
    rw [unreserve_entrySet]
    split
    · rename_i hs
      exact .setEntry fun h => h.restate (by rw [hs]; rfl) _
    · exact .refl s
  | monitorSet m c =>
    rw [unreserve_monitorSet]
    split
    · rename_i hs
      exact .setMonitor fun h => h.restate (by rw [hs]; rfl) _
    · exact .refl s
  | _ => exact .refl s

/-- Only the Proposal Slot changes, to a proposal of the same subject or to none. -/
theorem Orders.setProposal {s : State} {o : Option Proposal} (n : BitVec 8)
    (h : ∀ pr, o = some pr → ∃ pr', s.proposal = some pr' ∧ pr'.subject = pr.subject) :
    Orders s { s with proposal := o, nextId := n } := ⟨fun _ => id, fun _ => id, h⟩

theorem Orders.close (s : State) {pr : Proposal} (hx : pr.subject.LimitsLaw) (o : ProposalOutcome) :
    Orders s (s.close pr o) := by
  have h : Orders s (({ s with proposal := none } : State).raise (.proposal pr.id o pr.author) pr.parties) :=
    (Orders.setProposal (o := none) s.nextId fun _ hn => absurd hn (by simp)).trans (.raise _ _ _)
  unfold State.close
  cases o with
  | opened => exact h
  | adopted => exact h.trans (.install _ hx)
  | refused => exact h.trans (.unreserve _ _)
  | expired => exact h.trans (.unreserve _ _)
  | withdrawn => exact h.trans (.unreserve _ _)

theorem ContentsLaw.subject {s : State} (h : ContentsLaw s) {pr : Proposal} (hp : s.proposal = some pr) :
    pr.subject.LimitsLaw := (contentsLaw_iff.1 h).2.2 pr hp

theorem ContentsLaw.partyLeaves {s : State} (h : ContentsLaw s) (p : Port) : ContentsLaw (s.partyLeaves p) := by
  unfold State.partyLeaves
  split
  · exact h
  · rename_i pr hp
    have hx := h.subject hp
    split
    · exact h.orders (.close s hx _)
    · split
      · split
        · exact h.orders (Orders.close s (pr := pr.without p) hx .adopted)
        · exact h.orders (.setProposal s.nextId fun _ he => ⟨pr, hp, by cases he; rfl⟩)
      · exact h

/-! ### The subject checks -/

theorem limitsLaw_of_checkMonitor {s : State} {sc : Scope} {raw : RawMonitor} {c : MonitorContents}
    (h : s.checkMonitor sc raw = some c) : c.LimitsLaw := by
  unfold State.checkMonitor at h
  split at h
  · split at h
    · rename_i hc
      cases h
      exact hc.1
    · cases h
  · cases h

/-- What MONITOR_SET's checks leave: the monitor may be named, and its contents pass. -/
theorem readMonitorSet_ok {s : State} {b : Byte} {raw : RawMonitor} {x : Subject}
    (h : s.readMonitorSet b raw = .ok x) : ∃ m c, x = .monitorSet m c ∧ (s.monitor m).state.proposable = true ∧
      s.checkMonitor .common raw = some c := by
  unfold State.readMonitorSet at h
  split at h
  · cases h
  · split at h
    · split at h
      · cases h
      · cases h
        exact ⟨_, _, rfl, by assumption, by assumption⟩
    · cases h

/-- What ENTRY_SET's checks leave: the entry may be named, and its contents pass. -/
theorem readEntrySet_ok {s : State} {b : Byte} {raw : RawEntry} {x : Subject}
    (h : s.readEntrySet b raw = .ok x) : ∃ e c, x = .entrySet e c ∧ (s.entry e).state.proposable = true ∧
      s.checkContents .common e raw = .ok c := by
  unfold State.readEntrySet at h
  split at h
  · cases h
  · split at h
    · rename_i e _ hs
      rcases hc : s.checkContents .common e raw with st | c
      · rw [hc] at h
        cases h
      · rw [hc] at h
        cases h
        exact ⟨e, c, rfl, hs, hc⟩
    · cases h

/-- What the checks of a PROPOSE leave of its subject (§7.4): CLOCK_SET is read only while no clock switch is in progress. -/
def Subject.Checked (s : State) : Subject → Prop
  | .entrySet e c => (s.entry e).state.proposable = true ∧ ∃ raw, s.checkContents .common e raw = .ok c
  | .monitorSet m c => (s.monitor m).state.proposable = true ∧ ∃ raw, s.checkMonitor .common raw = some c
  | .entryRemove e => (s.entry e).state = .shared
  | .monitorRemove m => (s.monitor m).state = .shared
  | .timerSet _ period _ => period ≠ 0
  | .clockSet r => s.clock.phase = .none ∧ r ≠ ⟨.multiplied, .d1⟩
  | .windowSet window => window ≠ 0
  | _ => True

theorem readSubject_checked {s : State} {raw : RawSubject} {x : Subject} (h : s.readSubject raw = .ok x)
    (hb : s.switchBusy raw = false) : x.Checked s := by
  cases raw with
  | entrySet b c =>
    obtain ⟨e, c, rfl, hs, hc⟩ := readEntrySet_ok h
    exact ⟨hs, _, hc⟩
  | monitorSet b c =>
    obtain ⟨m, c, rfl, hs, hc⟩ := readMonitorSet_ok h
    exact ⟨hs, _, hc⟩
  | entryRemove b =>
    unfold State.readSubject State.readEntryRemove at h
    simp only at h
    split at h
    · cases h
    · split at h
      · cases h
        assumption
      · cases h
  | monitorRemove b =>
    unfold State.readSubject State.readMonitorRemove at h
    simp only at h
    split at h
    · cases h
    · split at h
      · cases h
        assumption
      · cases h
  | timerSet k period run =>
    unfold State.readSubject readTimerSet at h
    simp only at h
    split at h
    · split at h
      · cases h
      · cases h
        assumption
    · cases h
  | pinSet k edge =>
    unfold State.readSubject readPinSet at h
    simp only at h
    split at h
    · cases h
      trivial
    · cases h
  | clockSet mode divider =>
    unfold State.readSubject readClockSet at h
    simp only at h
    split at h
    · cases h
    · rename_i r hr
      cases h
      refine ⟨by simpa [State.switchBusy] using hb, ?_⟩
      unfold readClockSetting at hr
      split at hr
      · split at hr
        · cases hr
        · rename_i hn
          cases hr
          intro hc
          exact hn (ClockSetting.mk.inj hc)
      · cases hr
  | agingSet period =>
    cases h
    trivial
  | windowSet window =>
    unfold State.readSubject at h
    simp only at h
    split at h
    · cases h
    · cases h
      assumption

theorem Subject.Checked.limitsLaw {s : State} {x : Subject} (h : x.Checked s) : x.LimitsLaw := by
  cases x with
  | monitorSet m c =>
    obtain ⟨-, raw, hc⟩ := h
    exact limitsLaw_of_checkMonitor hc
  | _ => trivial

/-! ### The law is kept -/

theorem ContentsLaw.openProposal {s : State} (h : ContentsLaw s) (p : Port) {x : Subject} (hx : x.LimitsLaw) :
    ContentsLaw (s.openProposal p x) := by
  obtain ⟨he, hm, -⟩ := contentsLaw_iff.1 h
  refine ContentsLaw.orders ?_ ((Orders.reserve _ x).trans (.raise _ _ _))
  exact contentsLaw_iff.2 ⟨he, hm, fun pr hp => by cases hp; exact hx⟩

theorem ContentsLaw.propose {s : State} (h : ContentsLaw s) (p : Port) {x : Subject} (hx : x.LimitsLaw) :
    ContentsLaw (s.proposed p x).1 := by
  unfold State.proposed
  split
  · exact h.orders ((Orders.setProposal (s.nextId + 1) fun pr hp => ⟨pr, hp, rfl⟩).trans (.install _ hx))
  · exact h.openProposal p hx

theorem ContentsLaw.counted {s : State} (h : ContentsLaw s) {pr : Proposal} (hp : s.proposal = some pr) (p : Port)
    (accept : Bool) : ContentsLaw (s.counted pr p accept).1 := by
  have hx := h.subject hp
  unfold State.counted
  split
  · split
    · exact h.orders (Orders.close s (pr := pr.acceptedBy p) hx .adopted)
    · exact h.orders (.setProposal s.nextId fun _ he => ⟨pr, hp, by cases he; rfl⟩)
  · exact h.orders (Orders.close s hx .refused)

theorem Act.keepsContentsLaw {who : Option Port} {s t : State} (h : Act who s t) (hl : ContentsLaw s) :
    ContentsLaw t := by
  cases h with
  | port => exact hl.orders (.of_eq rfl rfl rfl)
  | attach => exact hl.orders (.of_eq rfl rfl rfl)
  | detach p detail =>
    have hport : Orders s (s.setPort p (s.port p).leave) := .of_eq rfl rfl rfl
    exact (hl.orders ((hport.trans (.freeItems _ p)).trans (.raise _ _ _))).partyLeaves p
  | claimEntry => exact hl.orders (.setEntry fun _ => .of_inScope rfl)
  | writeEntry p e raw c ho hc =>
    exact hl.orders ((Orders.discardTicket s e _).trans (.setEntry fun _ => .of_inScope (by
      show (s.entry e).state.inScope = true
      rw [ho]
      rfl)))
  | releaseEntry p e => exact hl.orders (.leaveScope s e true)
  | claimMonitor => exact hl.orders (.setMonitor fun hm => contentsLaw_install _ _ hm.limits _)
  | writeMonitor p m raw c ho hc =>
    exact hl.orders (.setMonitor fun _ => contentsLaw_install _ _ (limitsLaw_of_checkMonitor hc) _)
  | releaseMonitor => exact hl.orders (.setMonitor fun _ => contentsLaw_free _)
  | propose p raw x ha hn hb hr => exact hl.propose p (readSubject_checked hr hb).limitsLaw
  | vote p pr accept hp => exact hl.counted hp p accept
  | close pr o hp => exact hl.orders (.close s (hl.subject hp) o)
  | inner h => exact hl.orders (.quiet h.quiet)

/-- Every item is FREE with its defaults, and no proposal is open. -/
theorem contentsLaw_of_free {s : State} (he : ∀ e, s.entry e = .free 0) (hm : ∀ m, s.monitor m = .free 0)
    (hp : s.proposal = none) : ContentsLaw s := by
  refine contentsLaw_iff.2 ⟨fun e => ?_, fun m => ?_, fun pr h => absurd (hp.symm.trans h) (by simp)⟩
  · rw [he]
    exact defaultsLaw_free 0
  · rw [hm]
    exact contentsLaw_free 0

theorem contentsLaw_deviceReset (cause : ResetCause) (s : State) : ContentsLaw (deviceResetEvent cause s) :=
  contentsLaw_of_free (fun e => Table.get_fill _ e) (fun m => Table.get_fill _ m) rfl

theorem stepKeepsContentsLaw {s t : State} (hs : ContentsLaw s) (h : step s = .next t) : ContentsLaw t := by
  refine step_keeps (P := ContentsLaw) ?change (fun cause s _ => contentsLaw_deviceReset cause s)
    (fun s l hs => hs.orders (.of_eq rfl rfl rfl)) (fun s hs => hs.orders (.of_eq rfl rfl rfl)) ?tick
    (fun s _ _ hs => hs.orders (.of_eq rfl rfl rfl)) hs h
  case change =>
    intro who s t hc hs
    cases hc with
    | same => exact hs
    | frame p f => exact hs.orders (.of_eq rfl rfl rfl)
    | release hh => rw [resetReleaseEvent, if_pos hh]; exact hs.orders (.of_eq rfl rfl rfl)
    | acts _ h => exact h.keep (fun _ _ ha => ha.keepsContentsLaw) hs
  case tick =>
    intro s hh _ hs
    rw [State.tick, if_neg (by simp [hh])]
    exact hs.orders (.of_eq rfl rfl rfl)

/-- Settles O56: both laws are kept act by act. -/
theorem stepKeepsOwnersAndContents : Obligations.StepKeepsOwnersAndContents := by
  unfold Obligations.StepKeepsOwnersAndContents
  exact ⟨fun _ _ => stepKeepsOwnerLaw, fun _ _ => stepKeepsContentsLaw⟩

end Sys2Proof.Machine
end

section
/-! The law of the Proposal Slot (R150, R162). -/

namespace Sys2Proof.Machine

/-! ### Changes beside the Proposal Slot -/

/-- The state of an item that a proposal may be about. -/
def ItemState.pledged (x : ItemState) : Prop := x = .reserved ∨ x = .shared

/-- From `s` to `t` no port but `left` detaches, the open proposal stays, RESERVED and shared items keep their states and no
other item becomes RESERVED, and no clock switch begins. -/
structure Stays (left : Option Port) (s t : State) : Prop where
  attached : ∀ q, left ≠ some q → (s.port q).attached = true → (t.port q).attached = true
  proposal : t.proposal = s.proposal
  entry : ∀ e, (s.entry e).state.pledged → (t.entry e).state = (s.entry e).state
  newEntry : ∀ e, (t.entry e).state = .reserved → (s.entry e).state = .reserved
  monitor : ∀ m, (s.monitor m).state.pledged → (t.monitor m).state = (s.monitor m).state
  newMonitor : ∀ m, (t.monitor m).state = .reserved → (s.monitor m).state = .reserved
  phase : s.clock.phase = .none → t.clock.phase = .none

theorem Stays.subject {left : Option Port} {s t : State} (h : Stays left s t) {x : Subject} (hx : subjectStands s x) :
    subjectStands t x := by
  cases x with
  | entrySet e c =>
    show (t.entry e).state.pledged
    rw [h.entry e hx]
    exact hx
  | entryRemove e => exact (h.entry e (.inr hx)).trans hx
  | monitorSet m c =>
    show (t.monitor m).state.pledged
    rw [h.monitor m hx]
    exact hx
  | monitorRemove m => exact (h.monitor m (.inr hx)).trans hx
  | clockSet r => exact ⟨h.phase hx.1, hx.2⟩
  | timerSet => exact hx
  | pinSet => trivial
  | agingSet => trivial
  | windowSet => exact hx

theorem ProposalLaw.stays {s t : State} (h : ProposalLaw s) (hs : Stays none s t) : ProposalLaw t where
  author pr hp := ⟨hs.attached _ (by simp) (h.author pr (hs.proposal ▸ hp)).1, (h.author pr (hs.proposal ▸ hp)).2⟩
  voters pr hp q hq := hs.attached q (by simp) (h.voters pr (hs.proposal ▸ hp) q hq)
  accepted pr hp := h.accepted pr (hs.proposal ▸ hp)
  waiting pr hp := h.waiting pr (hs.proposal ▸ hp)
  subject pr hp := hs.subject (h.subject pr (hs.proposal ▸ hp))
  entries e he := by
    rw [hs.proposal]
    exact h.entries e (hs.newEntry e he)
  monitors m hm := by
    rw [hs.proposal]
    exact h.monitors m (hs.newMonitor m hm)

section
variable {left : Option Port}

theorem Stays.trans {s t u : State} (h1 : Stays left s t) (h2 : Stays left t u) : Stays left s u where
  attached q hq h := h2.attached q hq (h1.attached q hq h)
  proposal := h2.proposal.trans h1.proposal
  entry e h := (h2.entry e (by rw [h1.entry e h]; exact h)).trans (h1.entry e h)
  newEntry e h := h1.newEntry e (h2.newEntry e h)
  monitor m h := (h2.monitor m (by rw [h1.monitor m h]; exact h)).trans (h1.monitor m h)
  newMonitor m h := h1.newMonitor m (h2.newMonitor m h)
  phase h := h2.phase (h1.phase h)

/-- Every item keeps its state. -/
theorem Stays.of_states {s t : State}
    (hatt : ∀ q, left ≠ some q → (s.port q).attached = true → (t.port q).attached = true)
    (he : ∀ e, (t.entry e).state = (s.entry e).state) (hm : ∀ m, (t.monitor m).state = (s.monitor m).state)
    (hp : t.proposal = s.proposal) (hc : s.clock.phase = .none → t.clock.phase = .none) : Stays left s t :=
  ⟨hatt, hp, fun e _ => he e, fun e h => he e ▸ h, fun m _ => hm m, fun m h => hm m ▸ h, hc⟩

/-- A change elsewhere. -/
theorem Stays.of_eq {s t : State} (he : t.entries = s.entries) (hm : t.monitors = s.monitors) (hpo : t.ports = s.ports)
    (hp : t.proposal = s.proposal) (hc : s.clock.phase = .none → t.clock.phase = .none) : Stays left s t :=
  .of_states (fun q _ h => by rwa [State.port, hpo]) (fun e => by rw [State.entry, State.entry, he])
    (fun m => by rw [State.monitor, State.monitor, hm]) hp hc

theorem Stays.refl (s : State) : Stays left s s := .of_eq rfl rfl rfl rfl id

theorem Stays.quiet {s t : State} (hq : Quiet s t) (ht : Tells s t) : Stays left s t :=
  .of_states (fun q _ h => (ht.port q).attached.trans h) (fun e => (hq.entry e).state) (fun m => (hq.monitor m).state)
    hq.proposal hq.phase

theorem Stays.raise (s : State) (n : Notice) (who : PortSet) : Stays left s (s.raise n who) :=
  .quiet (.raise s n who) (.raise s n who)

theorem Stays.setPort {s : State} {p : Port} {y : PortState}
    (h : left = some p ∨ ((s.port p).attached = true → y.attached = true)) :
    Stays left s (s.setPort p y) := by
  refine .of_states (fun q hq ha => ?_) (fun _ => rfl) (fun _ => rfl) rfl id
  rw [State.port_setPort]
  split
  · rename_i hqp
    rcases h with hl | hy
    · exact absurd (hqp ▸ hl) hq
    · rw [hqp] at ha
      exact hy ha
  · exact ha

/-- An entry that is not RESERVED or shared gets a state that is not RESERVED, or every entry keeps its state. -/
theorem Stays.setEntry {s : State} {e : EntryId} {x : Entry}
    (h : x.state = (s.entry e).state ∨ ¬(s.entry e).state.pledged ∧ x.state ≠ .reserved) :
    Stays left s (s.setEntry e x) := by
  refine ⟨fun _ _ => id, rfl, fun i hi => ?_, fun i hi => ?_, fun _ _ => rfl, fun _ => id, id⟩
  · rw [State.entry_setEntry]
    split
    · rename_i hie
      rw [hie] at hi ⊢
      exact h.resolve_right fun hn => hn.1 hi
    · rfl
  · rw [State.entry_setEntry] at hi
    split at hi
    · rename_i hie
      rw [hie]
      exact h.elim (fun hx => hx ▸ hi) fun hn => absurd hi hn.2
    · exact hi

theorem Stays.setMonitor {s : State} {m : MonId} {x : Monitor}
    (h : x.state = (s.monitor m).state ∨ ¬(s.monitor m).state.pledged ∧ x.state ≠ .reserved) :
    Stays left s (s.setMonitor m x) := by
  refine ⟨fun _ _ => id, rfl, fun _ _ => rfl, fun _ => id, fun i hi => ?_, fun i hi => ?_, id⟩
  · rw [State.monitor_setMonitor]
    split
    · rename_i him
      rw [him] at hi ⊢
      exact h.resolve_right fun hn => hn.1 hi
    · rfl
  · rw [State.monitor_setMonitor] at hi
    split at hi
    · rename_i him
      rw [him]
      exact h.elim (fun hx => hx ▸ hi) fun hn => absurd hi hn.2
    · exact hi

theorem not_pledged_of_owned {x : ItemState} {p : Port} (h : x = .ownedBy p) : ¬x.pledged := by
  rw [h]
  exact fun hn => hn.elim ItemState.noConfusion (by simp [ItemState.ownedBy, ItemState.shared])

theorem not_pledged_of_free {x : ItemState} (h : x = .free) : ¬x.pledged := by
  rw [h]
  exact fun hn => hn.elim ItemState.noConfusion ItemState.noConfusion

theorem Stays.discardTicket (s : State) (e : EntryId) (c : Option DiscardCause) :
    Stays left s (s.discardTicket e c) := by
  refine .of_states (fun q _ h => ((Tells.discardTicket s e c).port q).attached.trans h)
    (fun i => by rw [entry_discardTicket]) (fun m => by rw [monitor_discardTicket]) ?_ fun h => ?_
  · rw [discardTicket_frame]
  · rw [discardTicket_frame]
    exact h

/-- Entries other than the one that leaves its scope keep their states. -/
theorem state_leaveScope_of_ne (s : State) {e i : EntryId} (h : i ≠ e) (b : Bool) :
    ((s.leaveScope e b).entry i).state = (s.entry i).state := by
  rw [entry_leaveScope, if_neg h]
  split <;> rfl

theorem state_leaveScope_self (s : State) (e : EntryId) (b : Bool) : ((s.leaveScope e b).entry e).state = .free := by
  rw [entry_leaveScope, if_pos rfl]
  rfl

theorem Stays.leaveScope {s : State} {e : EntryId} (he : ¬(s.entry e).state.pledged) (b : Bool) :
    Stays left s (s.leaveScope e b) := by
  refine ⟨fun q _ h => ((Tells.leaveScope s e b).port q).attached.trans h, ?_, fun i hi => ?_, fun i hi => ?_,
    fun m _ => state_monitor_leaveScope s e b m, fun m h => state_monitor_leaveScope s e b m ▸ h, fun h => ?_⟩
  · rw [leaveScope_frame]
  · exact state_leaveScope_of_ne s (fun hie => he (by rw [← hie]; exact hi)) b
  · by_cases hie : i = e
    · rw [hie, state_leaveScope_self] at hi
      cases hi
    · rwa [state_leaveScope_of_ne s hie] at hi
  · rw [leaveScope_frame]
    exact h

theorem Stays.freeEntries (s : State) (p : Port) : Stays left s (s.freeEntries p) := by
  unfold State.freeEntries
  generalize List.finRange 32 = l
  induction l generalizing s with
  | nil => exact .refl s
  | cons e l ih =>
    refine Stays.trans ?_ (ih _)
    unfold State.freeEntry
    split
    · rename_i h
      exact .leaveScope (not_pledged_of_owned h) false
    · exact .refl s

theorem Stays.freeMonitors (s : State) (p : Port) : Stays left s (s.freeMonitors p) := by
  refine ⟨fun _ _ => id, rfl, fun _ _ => rfl, fun _ => id, fun m hm => ?_, fun m hm => ?_, id⟩
  · rw [State.monitor_freeMonitors, if_neg fun h => not_pledged_of_owned h hm]
  · rw [State.monitor_freeMonitors] at hm
    split at hm
    · cases hm
    · exact hm

theorem Stays.freeItems (s : State) (p : Port) : Stays left s (s.freeItems p) :=
  (Stays.freeMonitors s p).trans (.freeEntries _ p)

end

/-! ### A proposal closes -/

/-- No proposal is open, and no item is RESERVED. -/
theorem ProposalLaw.of_none {t : State} (hp : t.proposal = none) (he : ∀ e, (t.entry e).state ≠ .reserved)
    (hm : ∀ m, (t.monitor m).state ≠ .reserved) : ProposalLaw t where
  author pr h := absurd (hp.symm.trans h) (by simp)
  voters pr h := absurd (hp.symm.trans h) (by simp)
  accepted pr h := absurd (hp.symm.trans h) (by simp)
  waiting pr h := absurd (hp.symm.trans h) (by simp)
  subject pr h := absurd (hp.symm.trans h) (by simp)
  entries e h := absurd h (he e)
  monitors m h := absurd h (hm m)

/-- From `s` to `t` no item becomes RESERVED, and the subject's own item is not. -/
structure Unpledges (x : Subject) (s t : State) : Prop where
  entry : ∀ e, (t.entry e).state = .reserved → (s.entry e).state = .reserved ∧ ∀ c, x ≠ .entrySet e c
  monitor : ∀ m, (t.monitor m).state = .reserved → (s.monitor m).state = .reserved ∧ ∀ c, x ≠ .monitorSet m c

/-- The subject names no entry or monitor to set. -/
theorem Unpledges.of_stays {x : Subject} {s t : State} (h : Stays none s t) (he : ∀ e c, x ≠ .entrySet e c)
    (hm : ∀ m c, x ≠ .monitorSet m c) : Unpledges x s t :=
  ⟨fun e hr => ⟨h.newEntry e hr, he e⟩, fun m hr => ⟨h.newMonitor m hr, hm m⟩⟩

theorem Unpledges.setEntry {s : State} {e : EntryId} {c : EntryContents} {x : Entry} (h : x.state ≠ .reserved) :
    Unpledges (.entrySet e c) s (s.setEntry e x) := by
  refine ⟨fun i hi => ?_, fun m hm => ⟨hm, fun _ => Subject.noConfusion⟩⟩
  rw [State.entry_setEntry] at hi
  split at hi
  · exact absurd hi h
  · rename_i hie
    exact ⟨hi, fun c hc => hie (by cases hc; rfl)⟩

theorem Unpledges.setMonitor {s : State} {m : MonId} {c : MonitorContents} {x : Monitor} (h : x.state ≠ .reserved) :
    Unpledges (.monitorSet m c) s (s.setMonitor m x) := by
  refine ⟨fun e he => ⟨he, fun _ => Subject.noConfusion⟩, fun i hi => ?_⟩
  rw [State.monitor_setMonitor] at hi
  split at hi
  · exact absurd hi h
  · rename_i him
    exact ⟨hi, fun c hc => him (by cases hc; rfl)⟩

/-- The subject's own entry is not RESERVED to begin with. -/
theorem Unpledges.entry_refl {s : State} {e : EntryId} (h : (s.entry e).state ≠ .reserved) (c : EntryContents) :
    Unpledges (.entrySet e c) s s :=
  ⟨fun _ hi => ⟨hi, fun _ hc => by cases hc; exact h hi⟩, fun _ hm => ⟨hm, fun _ => Subject.noConfusion⟩⟩

theorem Unpledges.monitor_refl {s : State} {m : MonId} (h : (s.monitor m).state ≠ .reserved) (c : MonitorContents) :
    Unpledges (.monitorSet m c) s s :=
  ⟨fun _ he => ⟨he, fun _ => Subject.noConfusion⟩, fun _ hi => ⟨hi, fun _ hc => by cases hc; exact h hi⟩⟩

theorem Unpledges.leaveScope (s : State) (e : EntryId) (b : Bool) :
    Unpledges (.entryRemove e) s (s.leaveScope e b) := by
  refine ⟨fun i hi => ⟨?_, fun _ => Subject.noConfusion⟩, fun m hm => ⟨?_, fun _ => Subject.noConfusion⟩⟩
  · by_cases hie : i = e
    · rw [hie, state_leaveScope_self] at hi
      cases hi
    · rwa [state_leaveScope_of_ne s hie] at hi
  · rwa [state_monitor_leaveScope] at hm

theorem Unpledges.install (s : State) (x : Subject) : Unpledges x s (s.install x) := by
  cases x with
  | entrySet e c =>
    show Unpledges (.entrySet e c) s (s.installEntry e c)
    unfold State.installEntry
    split
    · exact .setEntry ItemState.noConfusion
    · exact .setEntry ItemState.noConfusion
    · rename_i hs
      have hx : Unpledges (.entrySet e c) (s.discardTicket e (some .edited)) _ :=
        .setEntry (x := (s.entry e).rewrite c) (by
          show (s.entry e).state ≠ .reserved
          rw [hs]
          exact ItemState.noConfusion)
      refine ⟨fun i hi => ?_, fun m hm => ?_⟩
      · have := hx.entry i hi
        rwa [entry_discardTicket] at this
      · have := hx.monitor m hm
        rwa [monitor_discardTicket] at this
    · rename_i hs
      exact .entry_refl (by rw [hs]; exact ItemState.noConfusion) c
  | entryRemove e => exact .leaveScope s e true
  | monitorSet m c =>
    show Unpledges (.monitorSet m c) s (s.installMonitor m c)
    unfold State.installMonitor
    split
    · exact .setMonitor ItemState.noConfusion
    · exact .setMonitor ItemState.noConfusion
    · exact .setMonitor ItemState.noConfusion
    · rename_i hs
      exact .monitor_refl (by rw [hs]; exact ItemState.noConfusion) c
  | monitorRemove m =>
    refine ⟨fun e he => ⟨he, fun _ => Subject.noConfusion⟩, fun i hi => ⟨?_, fun _ => Subject.noConfusion⟩⟩
    have h : ((s.setMonitor m (s.monitor m).release).monitor i).state = .reserved := hi
    rw [State.monitor_setMonitor] at h
    split at h
    · cases h
    · exact h
  | clockSet r =>
    have hs := Switches.startSwitch s r
    refine ⟨fun e he => ⟨hs.entry e ▸ he, fun _ => Subject.noConfusion⟩,
      fun m hm => ⟨?_, fun _ => Subject.noConfusion⟩⟩
    have h : (s.startSwitch r).monitor m = s.monitor m := by rw [hs.rest]; rfl
    exact h ▸ hm
  | timerSet => exact .of_stays (.of_eq rfl rfl rfl rfl id) (fun _ _ => Subject.noConfusion) fun _ _ => Subject.noConfusion
  | pinSet => exact .of_stays (.of_eq rfl rfl rfl rfl id) (fun _ _ => Subject.noConfusion) fun _ _ => Subject.noConfusion
  | agingSet => exact .of_stays (.of_eq rfl rfl rfl rfl id) (fun _ _ => Subject.noConfusion) fun _ _ => Subject.noConfusion
  | windowSet => exact .of_stays (.of_eq rfl rfl rfl rfl id) (fun _ _ => Subject.noConfusion) fun _ _ => Subject.noConfusion

theorem Unpledges.unreserve (s : State) (x : Subject) : Unpledges x s (s.unreserve x) := by
  cases x with
  | entrySet e c =>
    rw [unreserve_entrySet]
    split
    · exact .setEntry ItemState.noConfusion
    · exact .entry_refl (by assumption) c
  | monitorSet m c =>
    rw [unreserve_monitorSet]
    split
    · exact .setMonitor ItemState.noConfusion
    · exact .monitor_refl (by assumption) c
  | _ => exact .of_stays (.refl s) (fun _ _ => Subject.noConfusion) fun _ _ => Subject.noConfusion

theorem Unpledges.settle {o : ProposalOutcome} (h : o ≠ .opened) (s : State) (x : Subject) :
    Unpledges x s (s.settle o x) := by
  cases o with
  | opened => exact absurd rfl h
  | adopted => exact .install s x
  | refused => exact .unreserve s x
  | expired => exact .unreserve s x
  | withdrawn => exact .unreserve s x

/-- What reserves items is the open proposal, and no item is RESERVED once it has closed. -/
theorem ProposalLaw.of_unpledges {s t : State} {x : Subject}
    (he : ∀ e, (s.entry e).state = .reserved → ∃ c, x = .entrySet e c)
    (hm : ∀ m, (s.monitor m).state = .reserved → ∃ c, x = .monitorSet m c) (h : Unpledges x s t)
    (hp : t.proposal = none) : ProposalLaw t := by
  refine .of_none hp (fun e hr => ?_) fun m hr => ?_
  · obtain ⟨hs, hx⟩ := h.entry e hr
    obtain ⟨c, hc⟩ := he e hs
    exact hx c hc
  · obtain ⟨hs, hx⟩ := h.monitor m hr
    obtain ⟨c, hc⟩ := hm m hs
    exact hx c hc

theorem proposal_install (s : State) (x : Subject) : (s.install x).proposal = s.proposal := by rw [install_frame]

theorem proposal_unreserve (s : State) (x : Subject) : (s.unreserve x).proposal = s.proposal := by
  cases x with
  | entrySet e c => rw [unreserve_entrySet]; split <;> rfl
  | monitorSet m c => rw [unreserve_monitorSet]; split <;> rfl
  | _ => rfl

theorem proposal_close (s : State) (pr : Proposal) (o : ProposalOutcome) : (s.close pr o).proposal = none := by
  unfold State.close
  cases o with
  | opened => rfl
  | adopted => exact proposal_install _ _
  | refused => exact proposal_unreserve _ _
  | expired => exact proposal_unreserve _ _
  | withdrawn => exact proposal_unreserve _ _

/-- The item that is RESERVED is the open proposal's. -/
structure Reserves (s : State) (x : Subject) : Prop where
  entries : ∀ e, (s.entry e).state = .reserved → ∃ c, x = .entrySet e c
  monitors : ∀ m, (s.monitor m).state = .reserved → ∃ c, x = .monitorSet m c

theorem ProposalLaw.reserves {s : State} (h : ProposalLaw s) {pr : Proposal} (hp : s.proposal = some pr) :
    Reserves s pr.subject := by
  refine ⟨fun e he => ?_, fun m hm => ?_⟩
  · obtain ⟨pr', c, hp', hx⟩ := h.entries e he
    cases hp.symm.trans hp'
    exact ⟨c, hx⟩
  · obtain ⟨pr', c, hp', hx⟩ := h.monitors m hm
    cases hp.symm.trans hp'
    exact ⟨c, hx⟩

theorem Reserves.stays {left : Option Port} {s t : State} {x : Subject} (h : Reserves s x) (hs : Stays left s t) :
    Reserves t x := ⟨fun e he => h.entries e (hs.newEntry e he), fun m hm => h.monitors m (hs.newMonitor m hm)⟩

theorem Reserves.close {s : State} {pr : Proposal} (h : Reserves s pr.subject) {o : ProposalOutcome}
    (ho : o ≠ .opened) : ProposalLaw (s.close pr o) :=
  .of_unpledges (s := ({ s with proposal := none } : State).raise (.proposal pr.id o pr.author) pr.parties)
    h.entries h.monitors (.settle ho _ _) (proposal_close s pr o)

/-! ### Votes, proposals and sessions -/

/-- The proposal with other sets, while someone is still to vote. -/
theorem ProposalLaw.setProposal {s t : State} (h : ProposalLaw s) {left : Option Port} (hs : Stays left s t)
    {pr pr' : Proposal} (hp : s.proposal = some pr) (hx : pr'.subject = pr.subject) (ha : pr'.author = pr.author)
    (hl : left ≠ some pr.author) (hreq : ∀ q, pr'.required.get q = true → pr.required.get q = true ∧ left ≠ some q)
    (hacc : ∀ q, pr'.accepted.get q = true → pr'.required.get q = true) (hout : pr'.outstanding ≠ 0) :
    ProposalLaw { t with proposal := some pr' } where
  author _ he := by
    cases he
    rw [ha]
    refine ⟨hs.attached _ hl (h.author pr hp).1, Bool.eq_false_iff.2 fun hr => ?_⟩
    exact absurd ((hreq _ hr).1.symm.trans (h.author pr hp).2) (by simp)
  voters _ he q hq := by
    cases he
    exact hs.attached q (hreq q hq).2 (h.voters pr hp q (hreq q hq).1)
  accepted _ he := by
    cases he
    exact hacc
  waiting _ he := by
    cases he
    exact Nat.pos_of_ne_zero hout
  subject _ he := by
    cases he
    rw [hx]
    cases hpr : pr.subject with
    | _ =>
      have := hs.subject (h.subject pr hp)
      rw [hpr] at this
      exact this
  entries e he := by
    obtain ⟨c, hc⟩ := (h.reserves hp).entries e (hs.newEntry e he)
    exact ⟨pr', c, rfl, hx.trans hc⟩
  monitors m hm := by
    obtain ⟨c, hc⟩ := (h.reserves hp).monitors m (hs.newMonitor m hm)
    exact ⟨pr', c, rfl, hx.trans hc⟩

theorem get_without (pr : Proposal) (p q : Port) :
    (pr.without p).required.get q = (if q = p then false else pr.required.get q) ∧
    (pr.without p).accepted.get q = (if q = p then false else pr.accepted.get q) :=
  ⟨PerPort.get_set _ _ _ _, PerPort.get_set _ _ _ _⟩

/-- A session end at the Proposal Slot: of port `p` alone the session is over. -/
theorem ProposalLaw.partyLeaves {s t : State} (h : ProposalLaw s) {p : Port} (hs : Stays (some p) s t) :
    ProposalLaw (t.partyLeaves p) := by
  unfold State.partyLeaves
  cases hp : s.proposal with
  | none =>
    have ht : t.proposal = none := hs.proposal.trans hp
    rw [ht]
    refine .of_none ht (fun e he => ?_) fun m hm => ?_
    · obtain ⟨pr, -, hpr, -⟩ := h.entries e (hs.newEntry e he)
      cases hp.symm.trans hpr
    · obtain ⟨pr, -, hpr, -⟩ := h.monitors m (hs.newMonitor m hm)
      cases hp.symm.trans hpr
  | some pr =>
    have ht : t.proposal = some pr := hs.proposal.trans hp
    have hr : Reserves t pr.subject := (h.reserves hp).stays hs
    rw [ht]
    simp only
    split
    · exact hr.close ProposalOutcome.noConfusion
    · rename_i hpa
      have hl : some p ≠ some pr.author := fun hc => hpa (Option.some.inj hc).symm
      split
      · split
        · exact Reserves.close (pr := pr.without p) hr ProposalOutcome.noConfusion
        · rename_i hout
          refine h.setProposal hs hp rfl rfl hl (fun q hq => ?_) (fun q hq => ?_) hout
          · rw [(get_without pr p q).1] at hq
            split at hq
            · cases hq
            · rename_i hqp
              exact ⟨hq, fun hc => hqp (Option.some.inj hc).symm⟩
          · rw [(get_without pr p q).2] at hq
            rw [(get_without pr p q).1]
            split at hq
            · cases hq
            · rename_i hqp
              rw [if_neg hqp]
              exact h.accepted pr hp q hq
      · rename_i hreq
        have hsame : ({ t with proposal := some pr } : State) = t := by rw [← ht]
        rw [← hsame]
        refine h.setProposal hs hp rfl rfl hl (fun q hq => ⟨hq, fun hc => hreq ?_⟩) (h.accepted pr hp)
          (h.waiting pr hp).ne'
        cases hc
        exact hq

theorem ProposalLaw.counted {s : State} (h : ProposalLaw s) {pr : Proposal} (hp : s.proposal = some pr) {p : Port}
    (hr : pr.required.get p = true) (accept : Bool) : ProposalLaw (s.counted pr p accept).1 := by
  unfold State.counted
  split
  · split
    · exact Reserves.close (pr := pr.acceptedBy p) (o := .adopted) (h.reserves (pr := pr) hp) ProposalOutcome.noConfusion
    · rename_i hout
      refine h.setProposal (left := none) (.refl s) hp rfl rfl (by simp) (fun q hq => ⟨hq, by simp⟩) (fun q hq => ?_) hout
      rw [Proposal.acceptedBy, PerPort.get_set] at hq
      split at hq
      · rename_i hqp
        exact hqp ▸ hr
      · exact h.accepted pr hp q hq
  · exact (h.reserves hp).close (o := .refused) ProposalOutcome.noConfusion

theorem get_votersFor (s : State) (p q : Port) :
    (s.votersFor p).get q = true ↔ (s.port q).attached = true ∧ q ≠ p := by
  simp [State.votersFor, State.port]

/-- Only the subject's own item is newly RESERVED. -/
theorem reserved_reserve {s : State} {x : Subject} (he : ∀ e, (s.entry e).state ≠ .reserved)
    (hm : ∀ m, (s.monitor m).state ≠ .reserved) : Reserves (s.reserve x) x := by
  cases x with
  | entrySet e c =>
    rw [reserve_entrySet]
    refine ⟨fun i hi => ?_, fun m h => ?_⟩
    · split at hi
      · rw [State.entry_setEntry] at hi
        split at hi
        · rename_i hie
          exact ⟨c, by rw [hie]⟩
        · exact absurd hi (he i)
      · exact absurd hi (he i)
    · split at h
      · exact absurd h (hm m)
      · exact absurd h (hm m)
  | monitorSet m c =>
    rw [reserve_monitorSet]
    refine ⟨fun e h => ?_, fun i hi => ?_⟩
    · split at h
      · exact absurd h (he e)
      · exact absurd h (he e)
    · split at hi
      · rw [State.monitor_setMonitor] at hi
        split at hi
        · rename_i him
          exact ⟨c, by rw [him]⟩
        · exact absurd hi (hm i)
      · exact absurd hi (hm i)
  | _ => exact ⟨fun e h => absurd h (he e), fun m h => absurd h (hm m)⟩

theorem proposable_iff {x : ItemState} : x.proposable = true ↔ x = .free ∨ x = .shared := by
  rcases x with _ | _ | _ | _ <;> simp [ItemState.proposable, ItemState.shared]

/-- A subject that passed its checks stands once its item is reserved. -/
theorem Subject.Checked.stands {s t : State} {x : Subject} (h : x.Checked s) (he : t.entries = s.entries)
    (hm : t.monitors = s.monitors) (hc : t.clock = s.clock) : subjectStands (t.reserve x) x := by
  have hst : ∀ e, (t.entry e).state = (s.entry e).state := fun e => by rw [State.entry, State.entry, he]
  have hsm : ∀ m, (t.monitor m).state = (s.monitor m).state := fun m => by rw [State.monitor, State.monitor, hm]
  cases x with
  | entrySet e c =>
    show ((t.reserve (.entrySet e c)).entry e).state.pledged
    rw [reserve_entrySet]
    split
    · exact .inl (by rw [State.entry_setEntry, if_pos rfl])
    · exact .inr ((proposable_iff.1 (hst e ▸ h.1)).resolve_left (by assumption))
  | monitorSet m c =>
    show ((t.reserve (.monitorSet m c)).monitor m).state.pledged
    rw [reserve_monitorSet]
    split
    · exact .inl (by rw [State.monitor_setMonitor, if_pos rfl])
    · exact .inr ((proposable_iff.1 (hsm m ▸ h.1)).resolve_left (by assumption))
  | entryRemove e => exact (hst e).trans h
  | monitorRemove m => exact (hsm m).trans h
  | timerSet => exact h
  | pinSet => trivial
  | clockSet => exact ⟨by rw [← h.1, ← hc]; rfl, h.2⟩
  | agingSet => trivial
  | windowSet => exact h

theorem ProposalLaw.not_reserved {s : State} (h : ProposalLaw s) (hn : s.proposal = none) :
    (∀ e, (s.entry e).state ≠ .reserved) ∧ ∀ m, (s.monitor m).state ≠ .reserved := by
  refine ⟨fun e he => ?_, fun m hm => ?_⟩
  · obtain ⟨pr, -, hp, -⟩ := h.entries e he
    cases hn.symm.trans hp
  · obtain ⟨pr, -, hp, -⟩ := h.monitors m hm
    cases hn.symm.trans hp

theorem proposal_reserve (s : State) (x : Subject) : (s.reserve x).proposal = s.proposal := by
  cases x with
  | entrySet e c => rw [reserve_entrySet]; split <;> rfl
  | monitorSet m c => rw [reserve_monitorSet]; split <;> rfl
  | _ => rfl

theorem outstanding_pos_of_voters {pr : Proposal} (hv : noPort pr.required = false)
    (hacc : ∀ q, pr.accepted.get q = false) : 0 < pr.outstanding := by
  refine Nat.pos_of_ne_zero fun h0 => ?_
  refine Bool.eq_false_iff.1 hv ((noPort_iff _).2 fun q => ?_)
  exact Bool.eq_false_iff.2 fun hq => absurd ((outstanding_eq_zero_iff pr).1 h0 q hq) (by simp [hacc])

/-- The proposal that opens. -/
def State.opening (s : State) (p : Port) (x : Subject) : Proposal :=
  { id := s.nextId, author := p, subject := x, deadline := s.voteDeadline, required := s.votersFor p,
    accepted := .fill false }

/-- The state with a proposal open whose item is not yet reserved. -/
def State.withOpening (s : State) (p : Port) (x : Subject) : State :=
  { s with proposal := some (s.opening p x), nextId := s.nextId + 1 }

theorem openProposal_eq (s : State) (p : Port) (x : Subject) :
    s.openProposal p x = ((s.withOpening p x).reserve x).raise (.proposal s.nextId .opened p) (s.votersFor p) := rfl

theorem ProposalLaw.openProposal {s : State} (h : ProposalLaw s) (hn : s.proposal = none) {p : Port}
    (ha : (s.port p).attached = true) {x : Subject} (hx : x.Checked s) (hv : noPort (s.votersFor p) = false) :
    ProposalLaw (s.openProposal p x) := by
  obtain ⟨hre, hrm⟩ := h.not_reserved hn
  have hatt : ∀ q, (s.port q).attached = true → ((s.openProposal p x).port q).attached = true := fun q hq =>
    ((((Tells.setProposal s _ _).trans (.reserve _ x)).raise_of _ _).port q).attached.trans hq
  have hprop : (s.openProposal p x).proposal = some (s.opening p x) := proposal_reserve (s.withOpening p x) x
  have hres : Reserves (s.openProposal p x) x :=
    (reserved_reserve (s := s.withOpening p x) hre hrm).stays (left := none) (.raise _ _ _)
  have hstands : subjectStands (s.openProposal p x) x :=
    (Stays.raise (left := none) _ _ _).subject (hx.stands (t := s.withOpening p x) rfl rfl rfl)
  refine ⟨fun pr hp => ?_, fun pr hp q hq => ?_, fun pr hp q hq => ?_, fun pr hp => ?_, fun pr hp => ?_,
    fun e he => ?_, fun m hm => ?_⟩
  · cases hprop.symm.trans hp
    exact ⟨hatt p ha, Bool.eq_false_iff.2 fun hc => ((get_votersFor s p p).1 hc).2 rfl⟩
  · cases hprop.symm.trans hp
    exact hatt q ((get_votersFor s p q).1 hq).1
  · cases hprop.symm.trans hp
    exact absurd (hq.symm.trans (PerPort.get_fill false q)) (by simp)
  · cases hprop.symm.trans hp
    exact outstanding_pos_of_voters hv fun q => PerPort.get_fill _ _
  · cases hprop.symm.trans hp
    exact hstands
  · obtain ⟨c, hc⟩ := hres.entries e he
    exact ⟨_, c, hprop, hc⟩
  · obtain ⟨c, hc⟩ := hres.monitors m hm
    exact ⟨_, c, hprop, hc⟩

theorem ProposalLaw.propose {s : State} (h : ProposalLaw s) (hn : s.proposal = none) {p : Port}
    (ha : (s.port p).attached = true) {x : Subject} (hx : x.Checked s) : ProposalLaw (s.proposed p x).1 := by
  obtain ⟨hre, hrm⟩ := h.not_reserved hn
  unfold State.proposed
  split
  · exact .of_unpledges (s := { s with nextId := s.nextId + 1 }) (fun e he => absurd he (hre e))
      (fun m hm => absurd hm (hrm m)) (.install _ x) ((proposal_install _ x).trans hn)
  · rename_i hv
    exact h.openProposal hn ha hx (Bool.eq_false_iff.2 hv)

theorem Act.keepsProposalLaw {who : Option Port} {s t : State} (h : Act who s t) (hl : ProposalLaw s) :
    ProposalLaw t := by
  cases h with
  | port p y hw hatt => exact hl.stays (.setPort (.inr hatt.trans))
  | attach p timeout subs n => exact hl.stays ((Stays.setPort (.inr fun _ => rfl)).trans (.raise _ _ _))
  | detach p detail =>
    exact hl.partyLeaves ((Stays.setPort (.inl rfl)).trans ((Stays.freeItems _ p).trans (.raise _ _ _)))
  | claimEntry p e ha hf => exact hl.stays (.setEntry (.inr ⟨not_pledged_of_free hf, ItemState.noConfusion⟩))
  | writeEntry p e raw c ho hc =>
    exact hl.stays ((Stays.discardTicket s e _).trans (.setEntry (.inl (by rw [entry_discardTicket]; rfl))))
  | releaseEntry p e ho => exact hl.stays (.leaveScope (not_pledged_of_owned ho) true)
  | claimMonitor p m ha hf => exact hl.stays (.setMonitor (.inr ⟨not_pledged_of_free hf, ItemState.noConfusion⟩))
  | writeMonitor p m raw c ho => exact hl.stays (.setMonitor (.inl ho.symm))
  | releaseMonitor p m ho => exact hl.stays (.setMonitor (.inr ⟨not_pledged_of_owned ho, ItemState.noConfusion⟩))
  | propose p raw x ha hn hb hr => exact hl.propose hn ha (readSubject_checked hr hb)
  | vote p pr accept hp hr => exact hl.counted hp hr accept
  | close pr o hp ho =>
    refine (hl.reserves hp).close ?_
    rcases ho with rfl | rfl <;> exact ProposalOutcome.noConfusion
  | inner h => exact hl.stays (.quiet h.quiet h.tells)

theorem Change.keepsProposalLaw {who : Option Port} {s t : State} (hc : Change who s t) (hs : ProposalLaw s) :
    ProposalLaw t := by
  cases hc with
  | same => exact hs
  | frame p f => exact hs.stays (.setPort (.inr id))
  | release hh => rw [resetReleaseEvent, if_pos hh]; exact hs.stays (.of_eq rfl rfl rfl rfl id)
  | acts _ h => exact h.keep (fun _ _ ha => ha.keepsProposalLaw) hs

theorem proposalLaw_deviceReset (cause : ResetCause) (s : State) : ProposalLaw (deviceResetEvent cause s) := by
  refine .of_none rfl (fun e => ?_) fun m => ?_
  · rw [show (deviceResetEvent cause s).entry e = .free 0 from Table.get_fill _ e]
    exact ItemState.noConfusion
  · rw [show (deviceResetEvent cause s).monitor m = .free 0 from Table.get_fill _ m]
    exact ItemState.noConfusion

theorem ProposalLaw.tick {s : State} (h : ProposalLaw s) : ProposalLaw s.tick := by
  unfold State.tick
  split
  · exact h
  · refine h.stays (.of_states (fun q _ hq => ?_) (fun _ => rfl) (fun _ => rfl) rfl id)
    simpa [State.port, PortState.tick] using hq

theorem stepKeepsProposalLaw_of_step {s t : State} (hs : ProposalLaw s) (h : step s = .next t) : ProposalLaw t :=
  step_keeps (P := ProposalLaw) (fun _ _ _ hc => hc.keepsProposalLaw) (fun cause s _ => proposalLaw_deviceReset cause s)
    (fun _ _ hs => hs.stays (.of_eq rfl rfl rfl rfl id)) (fun _ hs => hs.stays (.of_eq rfl rfl rfl rfl id))
    (fun _ _ _ hs => hs.tick) (fun _ _ _ hs => hs.stays (.of_eq rfl rfl rfl rfl id)) hs h

/-- Settles O57: acts beside the Proposal Slot keep what the open proposal is about, and a close leaves nothing RESERVED. -/
theorem stepKeepsProposalLaw : Obligations.StepKeepsProposalLaw := by
  unfold Obligations.StepKeepsProposalLaw
  exact fun _ _ => stepKeepsProposalLaw_of_step

end Sys2Proof.Machine
end

section
/-! The law of links and targets (R9, R10, R120, R162). -/

namespace Sys2Proof.Machine

/-! ### Walks -/

/-- A walk meets the same entries as long as they link alike. -/
theorem chainFrom_congr {s t : State} {n : Nat} {x : Option EntryId}
    (h : ∀ y ∈ s.chainFrom n x, (t.entry y).contents.link = (s.entry y).contents.link) :
    t.chainFrom n x = s.chainFrom n x := by
  induction n generalizing x with
  | zero => rfl
  | succ n ih =>
    cases x with
    | none => rfl
    | some y =>
      rw [State.chainFrom, State.chainFrom, h y (List.mem_cons_self ..),
        ih fun z hz => h z (List.mem_cons_of_mem _ hz)]

theorem chainFrom_prefix (s : State) (n k : Nat) (x : Option EntryId) : s.chainFrom n x <+: s.chainFrom (n + k) x := by
  induction n generalizing x with
  | zero => exact List.nil_prefix
  | succ n ih =>
    cases x with
    | none => simp [State.chainFrom]
    | some y =>
      rw [Nat.add_right_comm, State.chainFrom, State.chainFrom]
      exact List.prefix_cons_inj _ |>.2 (ih _)

theorem chainFrom_prefix_of_le (s : State) {n m : Nat} (h : n ≤ m) (x : Option EntryId) :
    s.chainFrom n x <+: s.chainFrom m x := by
  obtain ⟨k, rfl⟩ := Nat.exists_eq_add_of_le h
  exact chainFrom_prefix s n k x

/-- The removal of links makes no walk longer. -/
theorem length_chainFrom_le {s t : State} (h : ∀ e, (t.entry e).contents.link = (s.entry e).contents.link ∨
    (t.entry e).contents.link = none) (n : Nat) (x : Option EntryId) :
    (t.chainFrom n x).length ≤ (s.chainFrom n x).length := by
  induction n generalizing x with
  | zero => exact Nat.le_refl 0
  | succ n ih =>
    cases x with
    | none => exact Nat.le_refl 0
    | some y =>
      rw [State.chainFrom, State.chainFrom, List.length_cons, List.length_cons]
      refine Nat.succ_le_succ ?_
      rcases h y with hy | hy
      · rw [hy]
        exact ih _
      · rw [hy]
        cases n <;> exact Nat.zero_le _

/-- A walk from an entry of a scope stays in it. -/
theorem LinkLaw.state_of_mem_chainFrom {s : State} (h : LinkLaw s) {sc : Scope} {n : Nat} {x y : EntryId}
    (hx : (s.entry x).state = .scoped sc) (hy : y ∈ s.chainFrom n (some x)) : (s.entry y).state = .scoped sc := by
  induction n generalizing x with
  | zero => cases hy
  | succ n ih =>
    rcases List.mem_cons.1 hy with rfl | hy
    · exact hx
    · rcases hl : (s.entry x).contents.link with _ | z
      · rw [hl] at hy
        cases n <;> cases hy
      · rw [hl] at hy
        exact ih (h.scope x sc z hx hl) hy

/-! ### What the checks of an open proposal read -/

/-- The same entries are shared, with the same links. -/
structure SameCommon (s t : State) : Prop where
  state : ∀ e, (t.entry e).state = .shared ↔ (s.entry e).state = .shared
  link : ∀ e, (s.entry e).state = .shared → (t.entry e).contents.link = (s.entry e).contents.link

theorem SameCommon.trans {s t u : State} (h1 : SameCommon s t) (h2 : SameCommon t u) : SameCommon s u :=
  ⟨fun e => (h2.state e).trans (h1.state e), fun e he => (h2.link e ((h1.state e).2 he)).trans (h1.link e he)⟩

theorem SameCommon.linkInScope {s t : State} (h : SameCommon s t) (l : Option EntryId) :
    t.linkInScope .common l = s.linkInScope .common l := by
  cases l with
  | none => rfl
  | some l =>
    rw [Bool.eq_iff_iff]
    simpa [State.linkInScope] using h.state l

theorem SameCommon.targetInScope {s t : State} (h : SameCommon s t) (a : MonitorAction) :
    t.targetInScope .common a = s.targetInScope .common a := by
  cases a with
  | notify => rfl
  | notifyAndTrigger e =>
    rw [Bool.eq_iff_iff]
    simpa [State.targetInScope] using h.state e

theorem SameCommon.linkersOf {s t : State} (h : SameCommon s t) (e : EntryId) :
    t.linkersOf .common e = s.linkersOf .common e := by
  refine List.filter_congr fun x _ => ?_
  rw [Bool.eq_iff_iff]
  simp only [Bool.and_eq_true, beq_iff_eq]
  refine ⟨fun ⟨hs, hl⟩ => ?_, fun ⟨hs, hl⟩ => ⟨(h.state x).2 hs, (h.link x hs).trans hl⟩⟩
  have hs' := (h.state x).1 hs
  exact ⟨hs', (h.link x hs').symm.trans hl⟩

theorem SameCommon.backwardCount {s t : State} (h : SameCommon s t) (n : Nat) (e : EntryId) :
    t.backwardCount .common n e = s.backwardCount .common n e := by
  induction n generalizing e with
  | zero => rfl
  | succ n ih =>
    rw [State.backwardCount, State.backwardCount, h.linkersOf]
    simp only [ih]

theorem linkOk_iff {s : State} {sc : Scope} {e : EntryId} {l : Option EntryId} : s.linkOk sc e l = true ↔
    s.linkInScope sc l = true ∧ l ≠ some e ∧ e ∉ s.chainFrom 32 l ∧
      (s.chainFrom 32 l).length + 1 + s.backwardCount sc 32 e ≤ 8 := by
  simp only [State.linkOk, Bool.and_eq_true, Bool.not_eq_true', bne_iff_ne, decide_eq_true_eq, and_assoc,
    ← Bool.not_eq_true, List.contains_iff_mem]
  rfl

theorem SameCommon.linkOk {s t : State} (h : SameCommon s t) (hs : LinkLaw s) {e : EntryId} {l : Option EntryId}
    (hl : s.linkOk .common e l = true) : t.linkOk .common e l = true := by
  obtain ⟨h1, h2, h3, h4⟩ := linkOk_iff.1 hl
  have hc : t.chainFrom 32 l = s.chainFrom 32 l := by
    refine chainFrom_congr fun y hy => h.link y ?_
    cases l with
    | none => cases hy
    | some x => exact hs.state_of_mem_chainFrom (by simpa [State.linkInScope] using h1) hy
  rw [linkOk_iff, h.linkInScope, hc, h.backwardCount]
  exact ⟨h1, h2, h3, h4⟩

/-- The proposal that is open, if any, is of the same subject as before, and reads the same common entries. -/
def ReadsSame (s t : State) : Prop :=
  ∀ pr, t.proposal = some pr → SameCommon s t ∧ ∃ pr', s.proposal = some pr' ∧ pr'.subject = pr.subject

theorem ReadsSame.trans {s t u : State} (h1 : ReadsSame s t) (h2 : ReadsSame t u) : ReadsSame s u := by
  intro pr hu
  obtain ⟨c2, pr', ht, hx⟩ := h2 pr hu
  obtain ⟨c1, pr'', hs, hx'⟩ := h1 pr' ht
  exact ⟨c1.trans c2, pr'', hs, hx'.trans hx⟩

theorem ReadsSame.of_none {s t : State} (h : t.proposal = none) : ReadsSame s t :=
  fun _ hp => absurd (h.symm.trans hp) (by simp)

theorem ReadsSame.of_common {s t : State} (h : SameCommon s t) (hp : t.proposal = s.proposal) : ReadsSame s t :=
  fun pr ht => ⟨h, pr, hp ▸ ht, rfl⟩

/-- The law, where the entries' part of it and the monitors' part are known. -/
theorem LinkLaw.of_reads {s t : State} (h : LinkLaw s) (hr : ReadsSame s t)
    (hscope : ∀ e sc l, (t.entry e).state = .scoped sc → (t.entry e).contents.link = some l →
      (t.entry l).state = .scoped sc)
    (hlength : ∀ e sc, (t.entry e).state = .scoped sc → (t.chainFrom 9 (some e)).length ≤ 8)
    (htarget : ∀ m sc e, (t.monitor m).state = .scoped sc → (t.monitor m).contents.action = .notifyAndTrigger e →
      (t.entry e).state = .scoped sc) : LinkLaw t where
  scope := hscope
  length := hlength
  target := htarget
  proposedLink pr e c hp hx := by
    obtain ⟨hc, pr', hp', hx'⟩ := hr pr hp
    exact hc.linkOk h (h.proposedLink pr' e c hp' (hx'.trans hx))
  proposedTarget pr m c hp hx := by
    obtain ⟨hc, pr', hp', hx'⟩ := hr pr hp
    rw [hc.targetInScope]
    exact h.proposedTarget pr' m c hp' (hx'.trans hx)

/-! ### Changes that only cut -/

/-- From `s` to `t` links and targets are cut but not made, no item comes into a scope, and whatever leaves a scope is no link
or target of what stays there. -/
structure Cuts (s t : State) : Prop where
  link : ∀ e, (t.entry e).contents.link = (s.entry e).contents.link ∨ (t.entry e).contents.link = none
  state : ∀ e sc, (t.entry e).state = .scoped sc → (s.entry e).state = .scoped sc
  linked : ∀ e sc l, (t.entry e).state = .scoped sc → (t.entry e).contents.link = some l →
    (s.entry l).state = .scoped sc → (t.entry l).state = .scoped sc
  monitor : ∀ m sc e, (t.monitor m).state = .scoped sc → (t.monitor m).contents.action = .notifyAndTrigger e →
    (s.monitor m).state = .scoped sc ∧ (s.monitor m).contents.action = .notifyAndTrigger e ∧
      ((s.entry e).state = .scoped sc → (t.entry e).state = .scoped sc)
  reads : ReadsSame s t

theorem Cuts.link_eq {s t : State} (h : Cuts s t) {e l : EntryId} (hl : (t.entry e).contents.link = some l) :
    (s.entry e).contents.link = some l :=
  (h.link e).elim (fun he => he ▸ hl) fun hn => absurd (hn.symm.trans hl) (by simp)

theorem LinkLaw.cuts {s t : State} (h : LinkLaw s) (hc : Cuts s t) : LinkLaw t := by
  refine h.of_reads hc.reads (fun e sc l hs hl => ?_) (fun e sc hs => ?_) fun m sc e hs ha => ?_
  · exact hc.linked e sc l hs hl (h.scope e sc l (hc.state e sc hs) (hc.link_eq hl))
  · exact (length_chainFrom_le hc.link 9 _).trans (h.length e sc (hc.state e sc hs))
  · obtain ⟨hs', ha', he⟩ := hc.monitor m sc e hs ha
    exact he (h.target m sc e hs' ha')

theorem Cuts.trans {s t u : State} (h1 : Cuts s t) (h2 : Cuts t u) : Cuts s u where
  link e := by
    rcases h2.link e with h | h
    · rw [h]
      exact h1.link e
    · exact .inr h
  state e sc h := h1.state e sc (h2.state e sc h)
  linked e sc l hs hl hsl := h2.linked e sc l hs hl (h1.linked e sc l (h2.state e sc hs) (h2.link_eq hl) hsl)
  monitor m sc e hs ha := by
    obtain ⟨hs2, ha2, he2⟩ := h2.monitor m sc e hs ha
    obtain ⟨hs1, ha1, he1⟩ := h1.monitor m sc e hs2 ha2
    exact ⟨hs1, ha1, fun h => he2 (he1 h)⟩
  reads := h1.reads.trans h2.reads

/-- Every entry keeps its state and its link, every monitor its state and its action. -/
theorem Cuts.of_same {s t : State} (he : ∀ e, (t.entry e).state = (s.entry e).state)
    (hl : ∀ e, (t.entry e).contents.link = (s.entry e).contents.link)
    (hm : ∀ m, (t.monitor m).state = (s.monitor m).state)
    (ha : ∀ m, (t.monitor m).contents.action = (s.monitor m).contents.action)
    (hp : ∀ pr, t.proposal = some pr → ∃ pr', s.proposal = some pr' ∧ pr'.subject = pr.subject) : Cuts s t where
  link e := .inl (hl e)
  state e sc h := he e ▸ h
  linked e sc l _ _ h := (he l).trans h
  monitor m sc e hs hact := ⟨hm m ▸ hs, ha m ▸ hact, fun h => (he e).trans h⟩
  reads pr h := ⟨⟨fun e => by rw [he e], fun e _ => hl e⟩, hp pr h⟩

/-- A change elsewhere. -/
theorem Cuts.of_eq {s t : State} (he : t.entries = s.entries) (hm : t.monitors = s.monitors)
    (hp : ∀ pr, t.proposal = some pr → ∃ pr', s.proposal = some pr' ∧ pr'.subject = pr.subject) : Cuts s t :=
  .of_same (fun e => by rw [State.entry, State.entry, he]) (fun e => by rw [State.entry, State.entry, he])
    (fun m => by rw [State.monitor, State.monitor, hm]) (fun m => by rw [State.monitor, State.monitor, hm]) hp

/-- A change elsewhere that leaves the open proposal. -/
theorem Cuts.of_rest {s t : State} (he : t.entries = s.entries) (hm : t.monitors = s.monitors)
    (hp : t.proposal = s.proposal) : Cuts s t := .of_eq he hm fun pr h => ⟨pr, hp ▸ h, rfl⟩

theorem Cuts.refl (s : State) : Cuts s s := .of_rest rfl rfl rfl

theorem Cuts.raise (s : State) (n : Notice) (who : PortSet) : Cuts s (s.raise n who) := .of_rest rfl rfl rfl

theorem Cuts.quiet {s t : State} (h : Quiet s t) : Cuts s t :=
  .of_same (fun e => (h.entry e).state) (fun e => congrArg _ (h.entry e).contents) (fun m => (h.monitor m).state)
    (fun m => congrArg _ (h.monitor m).contents) fun pr hp => ⟨pr, h.proposal ▸ hp, rfl⟩

theorem Cuts.discardTicket (s : State) (e : EntryId) (c : Option DiscardCause) : Cuts s (s.discardTicket e c) := by
  refine .of_rest ?_ ?_ ?_ <;> rw [discardTicket_frame]

/-- An entry outside every scope goes from one such state to the other. -/
theorem Cuts.restate_entry {s : State} {e : EntryId} (h : (s.entry e).state.inScope = false) {st : ItemState}
    (hst : st.inScope = false) : Cuts s (s.setEntry e { s.entry e with state := st }) := by
  have hns : ∀ {x : ItemState} {sc : Scope}, x.inScope = false → x ≠ .scoped sc := by
    rintro _ sc hx rfl
    cases hx
  have hlink : ∀ i, ((s.setEntry e { s.entry e with state := st }).entry i).contents.link =
      (s.entry i).contents.link := by
    intro i
    rw [State.entry_setEntry]
    split
    · rename_i hie
      rw [hie]
    · rfl
  have hstate : ∀ i sc, ((s.setEntry e { s.entry e with state := st }).entry i).state = .scoped sc ↔
      (s.entry i).state = .scoped sc := by
    intro i sc
    rw [State.entry_setEntry]
    split
    · rename_i hie
      rw [hie]
      exact ⟨fun hx => absurd hx (hns hst), fun hx => absurd hx (hns h)⟩
    · exact .rfl
  exact ⟨fun i => .inl (hlink i), fun i sc => (hstate i sc).1, fun _ sc l _ _ => (hstate l sc).2,
    fun m sc i hs ha => ⟨hs, ha, (hstate i sc).2⟩, .of_common ⟨fun i => hstate i _, fun i _ => hlink i⟩ rfl⟩

/-- A monitor outside every scope has no say. -/
theorem Cuts.unscope_monitor {s : State} {m : MonId} {x : Monitor} (hx : x.state.inScope = false) :
    Cuts s (s.setMonitor m x) := by
  refine ⟨fun _ => .inl rfl, fun _ _ => id, fun _ _ _ _ _ => id, fun i sc e hs ha => ?_,
    .of_common ⟨fun _ => .rfl, fun _ _ => rfl⟩ rfl⟩
  rw [State.monitor_setMonitor] at hs ha
  split at hs
  · rw [hs] at hx
    cases hx
  · rename_i him
    rw [if_neg him] at ha
    exact ⟨hs, ha, id⟩

theorem state_leaveScope_scoped {s : State} {e i : EntryId} {b : Bool} {sc : Scope}
    (h : ((s.leaveScope e b).entry i).state = .scoped sc) : i ≠ e ∧ (s.entry i).state = .scoped sc := by
  have hie : i ≠ e := fun hc => by
    rw [hc, state_leaveScope_self] at h
    cases h
  exact ⟨hie, state_leaveScope_of_ne s hie b ▸ h⟩

theorem link_leaveScope (s : State) (e i : EntryId) (b : Bool) :
    ((s.leaveScope e b).entry i).contents.link = (s.entry i).contents.link ∨
      ((s.leaveScope e b).entry i).contents.link = none := by
  rw [entry_leaveScope]
  split
  · exact .inr rfl
  · split
    · exact .inr rfl
    · exact .inl rfl

/-- What leaves its scope is linked and targeted no more (R17, R129). -/
theorem Cuts.leaveScope {s : State} {e : EntryId} (h : (s.entry e).state ≠ .shared ∨ s.proposal = none) (b : Bool) :
    Cuts s (s.leaveScope e b) where
  link i := link_leaveScope s e i b
  state i sc hs := (state_leaveScope_scoped hs).2
  linked i sc l hs hl hsl := by
    obtain ⟨hie, hsi⟩ := state_leaveScope_scoped hs
    by_cases hle : l = e
    · have hli : (s.entry i).contents.link = some e :=
        (link_leaveScope s e i b).elim (fun hx => by rw [← hx, hl, hle])
          fun hx => absurd (hx.symm.trans hl) (by simp)
      rw [entry_leaveScope, if_neg hie, if_pos ⟨by rw [hsi, ← hsl, hle], hli⟩] at hl
      cases hl
    · rw [state_leaveScope_of_ne s hle]
      exact hsl
  monitor m sc i hs ha := by
    rw [state_monitor_leaveScope] at hs
    rw [monitor_leaveScope] at ha
    split at ha
    · cases ha
    · rename_i ht
      refine ⟨hs, ha, fun hi => ?_⟩
      rw [state_leaveScope_of_ne s _ b]
      · exact hi
      · rintro rfl
        exact ht (by simp [State.targets, hs, ha, ItemState.inScope])
  reads := by
    have hp : (s.leaveScope e b).proposal = s.proposal := by rw [leaveScope_frame]
    rcases h with he | hn
    · refine .of_common ⟨fun i => ?_, fun i hi => ?_⟩ hp
      · by_cases hie : i = e
        · rw [hie, state_leaveScope_self]
          exact ⟨ItemState.noConfusion, fun hc => absurd hc he⟩
        · rw [state_leaveScope_of_ne s hie]
      · rw [entry_leaveScope, if_neg (fun hie => he (by rw [← hie]; exact hi)), if_neg]
        exact fun hc => he (hc.1.symm.trans hi)
    · exact .of_none (hp.trans hn)

theorem owned_ne_shared {x : ItemState} {p : Port} (h : x = .ownedBy p) : x ≠ .shared := by
  rw [h]
  simp [ItemState.shared]

theorem Cuts.freeEntries (s : State) (p : Port) : Cuts s (s.freeEntries p) := by
  unfold State.freeEntries
  generalize List.finRange 32 = l
  induction l generalizing s with
  | nil => exact .refl s
  | cons e l ih =>
    refine Cuts.trans ?_ (ih _)
    unfold State.freeEntry
    split
    · rename_i h
      exact .leaveScope (.inl (owned_ne_shared h)) false
    · exact .refl s

theorem Cuts.freeMonitors (s : State) (p : Port) : Cuts s (s.freeMonitors p) := by
  refine ⟨fun _ => .inl rfl, fun _ _ => id, fun _ _ _ _ _ => id, fun m sc e hs ha => ?_,
    .of_common ⟨fun _ => .rfl, fun _ _ => rfl⟩ rfl⟩
  rw [State.monitor_freeMonitors] at hs ha
  split at hs
  · cases hs
  · rename_i hm
    rw [if_neg hm] at ha
    exact ⟨hs, ha, id⟩

theorem Cuts.freeItems (s : State) (p : Port) : Cuts s (s.freeItems p) :=
  (Cuts.freeMonitors s p).trans (.freeEntries _ p)

theorem Cuts.reserve (s : State) (x : Subject) : Cuts s (s.reserve x) := by
  cases x with
  | entrySet e c =>
    rw [reserve_entrySet]
    split
    · rename_i hs
      exact .restate_entry (by rw [hs]; rfl) rfl
    · exact .refl s
  | monitorSet m c =>
    rw [reserve_monitorSet]
    split
    · exact .unscope_monitor rfl
    · exact .refl s
  | _ => exact .refl s

theorem Cuts.unreserve (s : State) (x : Subject) : Cuts s (s.unreserve x) := by
  cases x with
  | entrySet e c =>
    rw [unreserve_entrySet]
    split
    · rename_i hs
      exact .restate_entry (by rw [hs]; rfl) rfl
    · exact .refl s
  | monitorSet m c =>
    rw [unreserve_monitorSet]
    split
    · exact .unscope_monitor rfl
    · exact .refl s
  | _ => exact .refl s

/-! ### A new link -/

/-- From `s` to `t` entry `e` gets a link that passes the link checks of R9 for its scope `sc`, where it was or which it
comes to; no other entry changes its state or its link, and no monitor its state or its action. -/
structure Relinks (e : EntryId) (sc : Scope) (s t : State) : Prop where
  others : ∀ i, i ≠ e → (t.entry i).state = (s.entry i).state
  links : ∀ i, i ≠ e → (t.entry i).contents.link = (s.entry i).contents.link
  state : (t.entry e).state = .scoped sc
  was : ∀ sc', (s.entry e).state = .scoped sc' → sc' = sc
  ok : s.linkOk sc e (t.entry e).contents.link = true
  monitors : t.monitors = s.monitors
  reads : ReadsSame s t

theorem Relinks.stays {e : EntryId} {sc : Scope} {s t : State} (h : Relinks e sc s t) {i : EntryId} {sc' : Scope}
    (hi : (s.entry i).state = .scoped sc') : (t.entry i).state = .scoped sc' := by
  by_cases hie : i = e
  · rw [hie] at hi ⊢
    rw [h.state, h.was sc' hi]
  · rw [h.others i hie]
    exact hi

theorem Relinks.scope {e : EntryId} {sc : Scope} {s t : State} (h : Relinks e sc s t) (hs : LinkLaw s) {i l : EntryId}
    {sc' : Scope} (hi : (t.entry i).state = .scoped sc') (hl : (t.entry i).contents.link = some l) :
    (t.entry l).state = .scoped sc' := by
  by_cases hie : i = e
  · obtain ⟨hin, -⟩ := linkOk_iff.1 h.ok
    rw [hie] at hi hl
    cases h.state.symm.trans hi
    rw [hl] at hin
    exact h.stays (by simpa [State.linkInScope] using hin)
  · exact h.stays (hs.scope i sc' l (h.others i hie ▸ hi) (h.links i hie ▸ hl))

/-- The walk from `e` along its new link never comes back to `e`. -/
theorem Relinks.length_from_self {e : EntryId} {sc : Scope} {s t : State} (h : Relinks e sc s t) {n : Nat} (hn : n ≤ 32) :
    (t.chainFrom n (some e)).length + s.backwardCount sc 32 e ≤ 8 := by
  obtain ⟨-, -, hnot, hle⟩ := linkOk_iff.1 h.ok
  cases n with
  | zero => rw [State.chainFrom, List.length_nil]; omega
  | succ n =>
    have hpre := chainFrom_prefix_of_le s (show n ≤ 32 by omega) (t.entry e).contents.link
    have hsame : t.chainFrom n (t.entry e).contents.link = s.chainFrom n (t.entry e).contents.link :=
      chainFrom_congr fun y hy => h.links y fun hye => hnot (hpre.subset (hye ▸ hy))
    have := hpre.length_le
    rw [State.chainFrom, List.length_cons, hsame]
    omega

/-- A path that arrives at an entry and the walk from there hold at most 8 entries: the walk either misses `e`, or comes to
`e` by a path that the backward count of `e` bounds. -/
theorem Relinks.length_le {e : EntryId} {sc : Scope} {s t : State} (h : Relinks e sc s t) (hs : LinkLaw s) {n : Nat}
    (hn : n ≤ 32) {x : EntryId} {sc' : Scope} {path : List EntryId} (hx : (t.entry x).state = .scoped sc')
    (hp : s.arrivesBy sc' x path) : path.length + (t.chainFrom n (some x)).length ≤ 8 := by
  have hlt : path.length < 8 := hs.length_lt_of_arrivesBy hp
  induction n generalizing x path with
  | zero => rw [State.chainFrom, List.length_nil]; omega
  | succ n ih =>
    by_cases hxe : x = e
    · subst hxe
      cases h.state.symm.trans hx
      have h1 := length_le_backwardCount hp (show path.length ≤ 32 by omega)
      have h2 := h.length_from_self hn
      omega
    · rcases hl : (t.entry x).contents.link with _ | y
      · have : (t.chainFrom (n + 1) (some x)).length = 1 := by
          rw [State.chainFrom, hl]
          cases n <;> rfl
        omega
      · have hpy : s.arrivesBy sc' y (x :: path) := ⟨h.others x hxe ▸ hx, h.links x hxe ▸ hl, hp⟩
        have := ih (by omega) (h.scope hs hx hl) hpy (hs.length_lt_of_arrivesBy hpy)
        rw [List.length_cons] at this
        rw [State.chainFrom, hl, List.length_cons]
        omega

theorem LinkLaw.relinks {s t : State} (hs : LinkLaw s) {e : EntryId} {sc : Scope} (h : Relinks e sc s t) : LinkLaw t := by
  refine hs.of_reads h.reads (fun i sc' l => h.scope hs) (fun i sc' hi => ?_) fun m sc' i hm ha => ?_
  · have := h.length_le hs (n := 9) (by omega) hi (path := []) trivial
    simpa using this
  · rw [State.monitor, h.monitors] at hm ha
    exact h.stays (hs.target m sc' i hm ha)

/-- Nothing links to an entry outside every scope, so it may come into a scope without a link. -/
theorem LinkLaw.linkOk_none {s : State} (hs : LinkLaw s) {e : EntryId} (he : (s.entry e).state.inScope = false)
    (sc : Scope) : s.linkOk sc e none = true := by
  have hb : s.backwardCount sc 32 e = 0 := by
    obtain ⟨path, hlen, hp⟩ := (hs.backward sc e).1
    cases path with
    | nil => exact hlen.symm
    | cons x rest =>
      have := hs.scope x sc e hp.1 hp.2.1
      rw [this] at he
      cases he
  rw [linkOk_iff, hb]
  exact ⟨rfl, by simp, by simp [State.chainFrom], by simp [State.chainFrom]⟩

/-! ### A new target -/

theorem LinkLaw.setMonitor {s : State} (hs : LinkLaw s) {m : MonId} {x : Monitor} {sc : Scope} (hx : x.state = .scoped sc)
    (ha : s.targetInScope sc x.contents.action = true) : LinkLaw (s.setMonitor m x) := by
  refine hs.of_reads (.of_common ⟨fun _ => .rfl, fun _ _ => rfl⟩ rfl) hs.scope (fun e sc he => ?_) fun i sc' e hi hact => ?_
  · rw [chainFrom_congr (s := s) (t := s.setMonitor m x) fun _ _ => rfl]
    exact hs.length e sc he
  · rw [State.monitor_setMonitor] at hi hact
    split at hi
    · rename_i him
      rw [if_pos him] at hact
      cases hx.symm.trans hi
      rw [hact] at ha
      simpa [State.targetInScope] using ha
    · rename_i him
      rw [if_neg him] at hact
      exact hs.target i sc' e hi hact

/-! ### A proposal opens and closes -/

/-- An entry is put in a scope with new contents, of a state `u` that has the items of `s`. -/
theorem Relinks.setEntry {s u : State} {e : EntryId} {x : Entry} {sc : Scope} (hu : u.entries = s.entries)
    (hum : u.monitors = s.monitors) (hx : x.state = .scoped sc)
    (hw : ∀ sc', (s.entry e).state = .scoped sc' → sc' = sc) (hok : s.linkOk sc e x.contents.link = true)
    (hr : ReadsSame s (u.setEntry e x)) : Relinks e sc s (u.setEntry e x) := by
  have he : ∀ i, (u.setEntry e x).entry i = if i = e then x else s.entry i := fun i => by
    rw [State.entry_setEntry, State.entry, State.entry, hu]
  exact ⟨fun i hi => by rw [he, if_neg hi], fun i hi => by rw [he, if_neg hi], by rw [he, if_pos rfl, hx], hw,
    by rw [he, if_pos rfl]; exact hok, hum, hr⟩

/-- What an adoption installs passes the link check or the target check. -/
def Subject.Links (s : State) : Subject → Prop
  | .entrySet e c => s.linkOk .common e c.link = true
  | .monitorSet _ c => s.targetInScope .common c.action = true
  | _ => True

theorem LinkLaw.subject {s : State} (hs : LinkLaw s) {pr : Proposal} (hp : s.proposal = some pr) :
    pr.subject.Links s := by
  rcases hx : pr.subject with ⟨e, c⟩ | _ | ⟨m, c⟩ | _ | _ | _ | _ | _ | _
  case entrySet => exact hs.proposedLink pr e c hp hx
  case monitorSet => exact hs.proposedTarget pr m c hp hx
  all_goals trivial

theorem LinkLaw.installEntry {s : State} (hs : LinkLaw s) (hn : s.proposal = none) {e : EntryId} {c : EntryContents}
    (hok : s.linkOk .common e c.link = true) : LinkLaw (s.installEntry e c) := by
  unfold State.installEntry
  split
  · rename_i he
    exact hs.relinks (.setEntry (x := (s.entry e).install .shared c) rfl rfl rfl
      (fun _ h => by rw [he] at h; cases h) hok (.of_none hn))
  · rename_i he
    exact hs.relinks (.setEntry (x := (s.entry e).install .shared c) rfl rfl rfl
      (fun _ h => by rw [he] at h; cases h) hok (.of_none hn))
  · rename_i he
    have hd := discardTicket_frame s e (some .edited)
    exact hs.relinks (.setEntry (x := (s.entry e).rewrite c) (by rw [hd]) (by rw [hd]) he
      (fun _ h => by rw [he] at h; cases h; rfl) hok
      (.of_none (by rw [hd]; exact hn)))
  · exact hs

theorem LinkLaw.installMonitor {s : State} (hs : LinkLaw s) {m : MonId} {c : MonitorContents}
    (hok : s.targetInScope .common c.action = true) : LinkLaw (s.installMonitor m c) := by
  unfold State.installMonitor
  split
  · exact hs.setMonitor rfl hok
  · exact hs.setMonitor rfl hok
  · exact hs.setMonitor rfl hok
  · exact hs

theorem LinkLaw.install {s : State} (hs : LinkLaw s) (hn : s.proposal = none) {x : Subject} (hx : x.Links s) :
    LinkLaw (s.install x) := by
  cases x with
  | entrySet e c => exact hs.installEntry hn hx
  | entryRemove e => exact hs.cuts (.leaveScope (.inr hn) true)
  | monitorSet m c => exact hs.installMonitor hx
  | monitorRemove m => exact hs.cuts (.unscope_monitor rfl)
  | clockSet r =>
    show LinkLaw (s.startSwitch r)
    refine hs.cuts (.of_rest ?_ ?_ ?_) <;> rw [(Switches.startSwitch s r).rest]
  | timerSet k period run => exact hs.cuts (.of_rest rfl rfl rfl)
  | pinSet k edge => exact hs.cuts (.of_rest rfl rfl rfl)
  | agingSet period => exact hs.cuts (.of_rest rfl rfl rfl)
  | windowSet window => exact hs.cuts (.of_rest rfl rfl rfl)

/-- The Proposal Slot's own fields are nothing that the checks read. -/
theorem SameCommon.subject {s t : State} (h : SameCommon s t) (hs : LinkLaw s) {x : Subject} (hx : x.Links s) :
    x.Links t := by
  cases x with
  | entrySet e c => exact h.linkOk hs hx
  | monitorSet m c => exact (h.targetInScope c.action).trans hx
  | _ => trivial

theorem LinkLaw.close {s : State} (hs : LinkLaw s) {pr : Proposal} (hx : pr.subject.Links s) (o : ProposalOutcome) :
    LinkLaw (s.close pr o) := by
  have hc : Cuts s (({ s with proposal := none } : State).raise (.proposal pr.id o pr.author) pr.parties) :=
    Cuts.trans (t := { s with proposal := none }) (.of_eq rfl rfl fun _ h => by cases h) (.raise _ _ _)
  have hu := hs.cuts hc
  have hx' : pr.subject.Links (({ s with proposal := none } : State).raise (.proposal pr.id o pr.author) pr.parties) :=
    SameCommon.subject (s := s) (t := State.raise { s with proposal := none } _ _)
      ⟨fun _ => .rfl, fun _ _ => rfl⟩ hs hx
  unfold State.close
  cases o with
  | opened => exact hu
  | adopted => exact hu.install rfl hx'
  | refused => exact hu.cuts (.unreserve _ _)
  | expired => exact hu.cuts (.unreserve _ _)
  | withdrawn => exact hu.cuts (.unreserve _ _)

/-- Only the Proposal Slot changes, to a proposal of the same subject. -/
theorem LinkLaw.setProposal {s : State} (hs : LinkLaw s) {pr pr' : Proposal} (hp : s.proposal = some pr)
    (hx : pr'.subject = pr.subject) : LinkLaw { s with proposal := some pr' } :=
  hs.cuts (.of_eq rfl rfl fun _ h => ⟨pr, hp, by cases h; exact hx.symm⟩)

theorem LinkLaw.partyLeaves {s : State} (hs : LinkLaw s) (p : Port) : LinkLaw (s.partyLeaves p) := by
  unfold State.partyLeaves
  split
  · exact hs
  · rename_i pr hp
    have hx := hs.subject hp
    split
    · exact hs.close hx _
    · split
      · split
        · exact LinkLaw.close hs (pr := pr.without p) hx .adopted
        · exact hs.setProposal hp rfl
      · exact hs

theorem LinkLaw.counted {s : State} (hs : LinkLaw s) {pr : Proposal} (hp : s.proposal = some pr) (p : Port)
    (accept : Bool) : LinkLaw (s.counted pr p accept).1 := by
  have hx := hs.subject hp
  unfold State.counted
  split
  · split
    · exact LinkLaw.close hs (pr := pr.acceptedBy p) hx .adopted
    · exact hs.setProposal hp rfl
  · exact LinkLaw.close hs hx .refused

theorem linkOk_of_checkContents {s : State} {sc : Scope} {e : EntryId} {raw : RawEntry} {c : EntryContents}
    (h : s.checkContents sc e raw = .ok c) : s.linkOk sc e c.link = true := by
  unfold State.checkContents at h
  split at h
  · cases h
  · split at h
    · split at h
      · rename_i hl
        cases h
        exact hl
      · cases h
    · cases h

theorem targetInScope_of_checkMonitor {s : State} {sc : Scope} {raw : RawMonitor} {c : MonitorContents}
    (h : s.checkMonitor sc raw = some c) : s.targetInScope sc c.action = true := by
  unfold State.checkMonitor at h
  split at h
  · split at h
    · rename_i hc
      cases h
      exact hc.2
    · cases h
  · cases h

theorem Subject.Checked.links {s : State} {x : Subject} (h : x.Checked s) : x.Links s := by
  cases x with
  | entrySet e c =>
    obtain ⟨-, raw, hc⟩ := h
    exact linkOk_of_checkContents hc
  | monitorSet m c =>
    obtain ⟨-, raw, hc⟩ := h
    exact targetInScope_of_checkMonitor hc
  | _ => trivial

theorem LinkLaw.withOpening {s : State} (hs : LinkLaw s) (p : Port) {x : Subject} (hx : x.Links s) :
    LinkLaw (s.withOpening p x) := by
  have hsame : SameCommon s (s.withOpening p x) := ⟨fun _ => .rfl, fun _ _ => rfl⟩
  have hx' := hsame.subject hs hx
  refine ⟨hs.scope, fun e sc he => ?_, hs.target, fun pr e c hp hpx => ?_, fun pr m c hp hpx => ?_⟩
  · rw [chainFrom_congr (s := s) (t := s.withOpening p x) fun _ _ => rfl]
    exact hs.length e sc he
  · cases hp
    cases hpx
    exact hx'
  · cases hp
    cases hpx
    exact hx'

theorem LinkLaw.propose {s : State} (hs : LinkLaw s) (hn : s.proposal = none) (p : Port) {x : Subject}
    (hx : x.Checked s) : LinkLaw (s.proposed p x).1 := by
  unfold State.proposed
  split
  · have hsame : SameCommon s { s with nextId := s.nextId + 1 } := ⟨fun _ => .rfl, fun _ _ => rfl⟩
    exact LinkLaw.install (s := { s with nextId := s.nextId + 1 }) (hs.cuts (.of_rest rfl rfl rfl)) hn
      (hsame.subject hs hx.links)
  · show LinkLaw (s.openProposal p x)
    rw [openProposal_eq]
    exact (hs.withOpening p hx.links).cuts ((Cuts.reserve _ x).trans (.raise _ _ _))

/-! ### The law is kept -/

/-- An entry that is not shared gets contents for another scope. -/
theorem ReadsSame.setOwned {s u : State} {e : EntryId} {x : Entry} (hu : u.entries = s.entries)
    (hp : u.proposal = s.proposal) (he : (s.entry e).state ≠ .shared) (hx : x.state ≠ .shared) :
    ReadsSame s (u.setEntry e x) := by
  have hent : ∀ i, (u.setEntry e x).entry i = if i = e then x else s.entry i := fun i => by
    rw [State.entry_setEntry, State.entry, State.entry, hu]
  refine .of_common ⟨fun i => ?_, fun i hi => ?_⟩ hp
  · rw [hent]
    split
    · rename_i hie
      rw [hie]
      exact iff_of_false hx he
    · exact .rfl
  · rw [hent, if_neg fun hie => he (by rw [← hie]; exact hi)]

theorem Act.keepsLinkLaw {who : Option Port} {s t : State} (h : Act who s t) (hl : LinkLaw s) (hc : ContentsLaw s) :
    LinkLaw t := by
  cases h with
  | port => exact hl.cuts (.of_rest rfl rfl rfl)
  | attach => exact hl.cuts (.of_rest rfl rfl rfl)
  | detach p detail =>
    have hport : Cuts s (s.setPort p (s.port p).leave) := .of_rest rfl rfl rfl
    exact (hl.cuts ((hport.trans (.freeItems _ p)).trans (.raise _ _ _))).partyLeaves p
  | claimEntry p e ha hf =>
    have hout : (s.entry e).state.inScope = false := by rw [hf]; rfl
    refine hl.relinks (.setEntry (sc := .own p) rfl rfl rfl (fun sc h => by rw [hf] at h; cases h) ?_
      (.setOwned rfl rfl (by rw [hf]; exact ItemState.noConfusion) (owned_ne_shared rfl)))
    have hlink : (s.entry e).contents.link = none := by
      rw [(hc.entry e hout).1]
      rfl
    exact hlink ▸ hl.linkOk_none hout (.own p)
  | writeEntry p e raw c ho hck =>
    have hd := discardTicket_frame s e (some .edited)
    exact hl.relinks (.setEntry (x := (s.entry e).rewrite c) (by rw [hd]) (by rw [hd]) ho
      (fun _ h => by rw [ho] at h; cases h; rfl) (linkOk_of_checkContents hck)
      (.setOwned (by rw [hd]) (by rw [hd]) (owned_ne_shared ho) (owned_ne_shared ho)))
  | releaseEntry p e ho => exact hl.cuts (.leaveScope (.inl (owned_ne_shared ho)) true)
  | claimMonitor p m ha hf =>
    have hact : (s.monitor m).contents.action = .notify := by
      rw [(hc.monitor m (by rw [hf]; rfl)).1]
      rfl
    exact hl.setMonitor (x := (s.monitor m).install (.ownedBy p) (s.monitor m).contents 0) rfl
      (by rw [show ((s.monitor m).install (.ownedBy p) (s.monitor m).contents 0).contents.action = .notify from hact]; rfl)
  | writeMonitor p m raw c ho hck => exact hl.setMonitor (sc := .own p) rfl (targetInScope_of_checkMonitor hck)
  | releaseMonitor => exact hl.cuts (.unscope_monitor rfl)
  | propose p raw x ha hn hb hr => exact hl.propose hn p (readSubject_checked hr hb)
  | vote p pr accept hp => exact hl.counted hp p accept
  | close pr o hp => exact hl.close (hl.subject hp) o
  | inner h => exact hl.cuts (.quiet h.quiet)

/-- Every item is FREE, and no proposal is open. -/
theorem linkLaw_of_free {s : State} (he : ∀ e, (s.entry e).state = .free) (hm : ∀ m, (s.monitor m).state = .free)
    (hp : s.proposal = none) : LinkLaw s where
  scope e _ _ h := absurd ((he e).symm.trans h) ItemState.noConfusion
  length e _ h := absurd ((he e).symm.trans h) ItemState.noConfusion
  target m _ _ h := absurd ((hm m).symm.trans h) ItemState.noConfusion
  proposedLink _ _ _ h := absurd (hp.symm.trans h) (by simp)
  proposedTarget _ _ _ h := absurd (hp.symm.trans h) (by simp)

theorem linkLaw_deviceReset (cause : ResetCause) (s : State) : LinkLaw (deviceResetEvent cause s) :=
  linkLaw_of_free (fun e => congrArg Entry.state (Table.get_fill _ e)) (fun m => congrArg Monitor.state (Table.get_fill _ m))
    rfl

theorem stepKeepsLinkAndContentsLaw {s t : State} (hs : LinkLaw s ∧ ContentsLaw s) (h : step s = .next t) :
    LinkLaw t ∧ ContentsLaw t := by
  have hsame : ∀ {s t : State}, LinkLaw s ∧ ContentsLaw s → t.entries = s.entries → t.monitors = s.monitors →
      t.proposal = s.proposal → LinkLaw t ∧ ContentsLaw t :=
    fun hs he hm hp => ⟨hs.1.cuts (.of_rest he hm hp), hs.2.orders (.of_eq he hm hp)⟩
  refine step_keeps (P := fun u => LinkLaw u ∧ ContentsLaw u) ?change
    (fun cause s _ => ⟨linkLaw_deviceReset cause s, contentsLaw_deviceReset cause s⟩)
    (fun s l hs => hsame hs rfl rfl rfl) (fun s hs => hsame hs rfl rfl rfl) ?tick
    (fun s _ _ hs => hsame hs rfl rfl rfl) hs h
  case change =>
    intro who s t hc hs
    cases hc with
    | same => exact hs
    | frame p f => exact hsame hs rfl rfl rfl
    | release hh => rw [resetReleaseEvent, if_pos hh]; exact hsame hs rfl rfl rfl
    | acts _ h =>
      exact h.keep (P := fun u => LinkLaw u ∧ ContentsLaw u) (fun _ _ ha hl =>
        ⟨ha.keepsLinkLaw hl.1 hl.2, ha.keepsContentsLaw hl.2⟩) hs
  case tick =>
    intro s hh _ hs
    rw [State.tick, if_neg (by simp [hh])]
    exact hsame hs rfl rfl rfl

/-- Settles O58: a new link passes its check, which counts the entries that its chain comes to hold, and what leaves its scope
is linked and targeted no more. -/
theorem stepKeepsLinkLaw : Obligations.StepKeepsLinkLaw := by
  unfold Obligations.StepKeepsLinkLaw
  exact fun _ _ hl hc _ h => (stepKeepsLinkAndContentsLaw ⟨hl, hc⟩ h).1

end Sys2Proof.Machine
end

section
/-! The laws of the Sampling Clock and of the converter (R64, R70, R82, R84, R91). -/

namespace Sys2Proof.Machine

/-! ### The Sampling Clock's own items -/

/-- What is held of the clock source in use agrees with it (R84). -/
structure Clock.Sourced (c : Clock) : Prop where
  measured : c.measured ≠ none ↔ c.active.mode = .external
  locked : c.loop = .locked ↔ c.active.mode = .multiplied
  active : c.active ≠ ⟨.multiplied, .d1⟩

/-- The items of R84 agree with one another. -/
structure Clock.Orderly (c : Clock) : Prop extends c.Sourced where
  deadline : c.deadline ≠ none ↔ ∃ r, c.phase = .acquiring r
  acquiring : ∀ r, c.phase = .acquiring r → r.mode ≠ .internal ∧ r.mode ≠ c.active.mode
  starting : c.loop = .starting ↔ ∃ r, c.phase = .acquiring r ∧ r.mode = .multiplied
  request : ∀ r, c.phase.request = some r → r ≠ ⟨.multiplied, .d1⟩
  watched : c.run ≠ none → ∃ r, c.phase = .acquiring r ∧ r.mode = .external
  run : ∀ x, c.run = some x → RunLaw x

/-- Both laws. -/
def Works (s : State) : Prop := ClockLaw s ∧ ConverterLaw s

theorem ClockLaw.orderly {s : State} (h : ClockLaw s) : s.clock.Orderly :=
  ⟨⟨h.measured, h.locked, h.active⟩, h.deadline, h.acquiring, h.starting, h.request, h.watched, h.run⟩

theorem clockLaw_of_orderly {s : State} (h : s.clock.Orderly) (hh : s.converter = .held ↔ ∃ r, s.clock.phase = .acquiring r)
    (hd : (∃ r, s.clock.phase = .draining r) → s.converter ≠ .idle) : ClockLaw s :=
  ⟨hh, hd, h.deadline, h.acquiring, h.measured, h.locked, h.starting, h.active, h.request, h.watched, h.run⟩

/-- No clock switch is in progress. -/
theorem Clock.Sourced.orderly {c : Clock} (h : c.Sourced) (hp : c.phase = .none) (hd : c.deadline = none)
    (hl : c.loop ≠ .starting) (hr : c.run = none) : c.Orderly where
  toSourced := h
  deadline := by simp [hp, hd]
  acquiring r hq := absurd (hp.symm.trans hq) SwitchPhase.noConfusion
  starting := by simp [hp, hl]
  request r hq := by
    rw [hp] at hq
    cases hq
  watched hn := absurd hr hn
  run x hx := absurd (hr.symm.trans hx) (by simp)

/-- The converter, with its work and its calibration, and the Sampling Clock are the same. -/
structure SameWork (s t : State) : Prop where
  converter : t.converter = s.converter
  work : t.work = s.work
  calibration : t.calibration = s.calibration
  clock : t.clock = s.clock

theorem SameWork.refl (s : State) : SameWork s s := ⟨rfl, rfl, rfl, rfl⟩

theorem SameWork.trans {s t u : State} (h1 : SameWork s t) (h2 : SameWork t u) : SameWork s u :=
  ⟨h2.converter.trans h1.converter, h2.work.trans h1.work, h2.calibration.trans h1.calibration, h2.clock.trans h1.clock⟩

theorem Works.same {s t : State} (h : Works s) (hs : SameWork s t) : Works t := by
  obtain ⟨⟨c1, c2, c3, c4, c5, c6, c7, c8, c9, c10, c11⟩, ⟨d1, d2, d3, d4, d5⟩⟩ := h
  obtain ⟨e1, e2, e3, e4⟩ := hs
  rw [← e1, ← e4] at c1 c2
  rw [← e4] at c3 c4 c5 c6 c7 c8 c9 c10 c11
  rw [← e1, ← e2] at d1 d2
  rw [← e1] at d3 d4 d5
  rw [← e3] at d5
  exact ⟨⟨c1, c2, c3, c4, c5, c6, c7, c8, c9, c10, c11⟩, ⟨d1, d2, d3, d4, d5⟩⟩

theorem Works.calibration_ne {s : State} (h : Works s) (hc : s.converter ≠ .calibrating) : s.calibration ≠ none :=
  fun hn => hc (h.2.calibrated hn)

/-! ### The converter's states -/

theorem works_of_idle {t : State} (hi : t.converter = .idle) (hw : t.work = none) (hc : t.calibration ≠ none)
    (hp : t.clock.phase = .none) (ho : t.clock.Orderly) : Works t := by
  refine ⟨clockLaw_of_orderly ho ?_ ?_, fun _ => hw, fun hn => absurd hi hn, fun c h => ?_, fun _ _ _ _ h => ?_,
    fun hn => absurd hn hc⟩
  · simp [hi, hp]
  · simp [hp]
  · rw [hi] at h
    cases h
  · rw [hi] at h
    cases h

/-- The converter has work. -/
theorem works_of_busy {t : State} (hi : t.converter ≠ .idle) (hh : t.converter ≠ .held) (hw : t.work ≠ none)
    (ho : t.clock.Orderly) (ha : ∀ r, t.clock.phase ≠ .acquiring r)
    (hpos : ∀ c, t.converter.copy? = some c → 1 ≤ c.position ∧ c.position ≤ 8)
    (hsum : ∀ c taken sum full, t.converter = .sampling c taken sum full →
      taken < avgCount c.avg ∧ lowCode c * (taken : Int) ≤ sum ∧ sum ≤ highCode c * (taken : Int))
    (hcal : t.calibration = none → t.converter = .calibrating) : Works t := by
  refine ⟨clockLaw_of_orderly ho ⟨fun h => absurd h hh, fun ⟨r, h⟩ => absurd h (ha r)⟩ fun _ => hi, ?_, fun _ _ => hw,
    hpos, hsum, hcal⟩
  rintro (h | h)
  · exact absurd h hi
  · exact absurd h hh

theorem works_of_calibrating {t : State} (hc : t.converter = .calibrating) (hw : t.work ≠ none) (ho : t.clock.Orderly)
    (ha : ∀ r, t.clock.phase ≠ .acquiring r) : Works t :=
  works_of_busy (by simp [hc]) (by simp [hc]) hw ho ha (fun c h => by rw [hc] at h; cases h)
    (fun _ _ _ _ h => by rw [hc] at h; cases h) fun _ => hc

theorem works_of_settling {t : State} {c : Copy} (hc : t.converter = .settling c) (hw : t.work ≠ none)
    (ho : t.clock.Orderly) (ha : ∀ r, t.clock.phase ≠ .acquiring r) (hpos : 1 ≤ c.position ∧ c.position ≤ 8)
    (hcal : t.calibration ≠ none) : Works t :=
  works_of_busy (by simp [hc]) (by simp [hc]) hw ho ha
    (fun d h => by rw [hc] at h; cases h; exact hpos) (fun _ _ _ _ h => by rw [hc] at h; cases h)
    fun hn => absurd hn hcal

/-- The converter is HELD while a clock is acquired. -/
theorem works_of_held {t : State} (hh : t.converter = .held) (hw : t.work = none) (ho : t.clock.Orderly)
    {r : ClockSetting} (hp : t.clock.phase = .acquiring r) (hcal : t.calibration ≠ none) : Works t := by
  refine ⟨clockLaw_of_orderly ho ⟨fun _ => ⟨r, hp⟩, fun _ => hh⟩ fun _ => by simp [hh], fun _ => hw,
    fun _ hn => absurd hh hn, fun c h => ?_, fun _ _ _ _ h => ?_, fun hn => absurd hn hcal⟩
  · rw [hh] at h
    cases h
  · rw [hh] at h
    cases h

theorem Works.not_acquiring {s : State} (h : Works s) (hh : s.converter ≠ .held) (r : ClockSetting) :
    s.clock.phase ≠ .acquiring r := fun hp => hh (h.1.held.2 ⟨r, hp⟩)

/-- A converter that is IDLE or at a conversion begins the next one. -/
theorem Works.begin {s : State} (h : Works s) (hh : s.converter ≠ .held) (hc : s.converter ≠ .calibrating)
    (e : EntryId) (sc : Scope) {n : Nat} (hn : 1 ≤ n ∧ n ≤ 8) : Works (s.begin e sc n) :=
  works_of_settling (c := copyOf e (s.entry e) sc n) rfl (Option.some_ne_none _) h.1.orderly (h.not_acquiring hh) hn
    (h.calibration_ne hc)

/-- The Arbiter leaves all as it is, or begins a conversion. -/
theorem consult_cases (s : State) :
    s.consult = s ∨ s.converter = .idle ∧ ∃ k sc, s.consult = (s.dropTicket k).begin k sc 1 := by
  unfold State.consult
  split
  · rename_i hi
    split
    · rename_i t _
      unfold State.dispatch
      split
      · exact .inr ⟨hi, t.entry, _, rfl⟩
      · exact .inl rfl
      · exact .inl rfl
    · exact .inl rfl
  all_goals exact .inl rfl

theorem Works.consult {s : State} (h : Works s) : Works s.consult := by
  rcases consult_cases s with hs | ⟨hi, k, sc, hs⟩
  · rwa [hs]
  · rw [hs]
    have h' : Works (s.dropTicket k) := h.same ⟨rfl, rfl, rfl, rfl⟩
    exact h'.begin (by rw [State.converter_dropTicket, hi]; exact Converter.noConfusion)
      (by rw [State.converter_dropTicket, hi]; exact Converter.noConfusion) k sc (by omega)

/-! ### Clock switches -/

theorem SameWork.raise (s : State) (n : Notice) (who : PortSet) : SameWork s (s.raise n who) := ⟨rfl, rfl, rfl, rfl⟩

/-- The successful end of a switch, with what the new source needs in hand. -/
theorem works_switchDone {s : State} {r : ClockSetting} (hr : r ≠ ⟨.multiplied, .d1⟩)
    (hm : r.mode = .external → s.clock.measured ≠ none) (hl : r.mode = .multiplied → s.clock.loop = .locked)
    (hst : s.clock.loop ≠ .starting) : Works (s.switchDone r) := by
  have hloop : loopAfter s.clock.loop r.mode ≠ .starting := by
    rw [loopAfter_eq]
    split
    · exact Loop.noConfusion
    · exact hst
  have hs : (s.clock.succeed r).Sourced := by
    refine ⟨?_, ?_, hr⟩
    · show (if r.mode = .external then s.clock.measured else none) ≠ none ↔ r.mode = .external
      split
      · rename_i h
        exact ⟨fun _ => h, fun _ => hm h⟩
      · rename_i h
        exact ⟨fun hn => absurd rfl hn, fun he => absurd he h⟩
    · show loopAfter s.clock.loop r.mode = .locked ↔ r.mode = .multiplied
      rw [loopAfter_eq]
      by_cases h : r.mode = .multiplied
      · simp [h, hl h]
      · by_cases h' : s.clock.loop = .locked <;> simp [h, h']
  have ho : (s.clock.succeed r).Orderly := hs.orderly rfl rfl hloop rfl
  have hw : Works { s with
      clock := s.clock.succeed r, converter := .calibrating, work := workLeft r calibrationPeriods } :=
    works_of_calibrating rfl (Option.some_ne_none _) ho fun _ => SwitchPhase.noConfusion
  exact hw.same (.raise _ _ _)

/-- The failed end of a switch. -/
theorem works_switchFailed {s : State} (hs : s.clock.Sourced) (hst : s.clock.loop ≠ .starting)
    (hc : s.calibration ≠ none) (r : ClockSetting) (cause : SwitchCause) : Works (s.switchFailed r cause) := by
  have hs' : Clock.Sourced { s.clock with phase := .none, deadline := none, run := none } :=
    ⟨hs.measured, hs.locked, hs.active⟩
  have hw : Works { s with
      clock := { s.clock with phase := .none, deadline := none, run := none }, converter := .idle, work := none } :=
    works_of_idle rfl rfl hc rfl (hs'.orderly rfl rfl hst rfl)
  exact hw.consult.same (.raise _ _ _)

theorem Clock.Orderly.not_starting {c : Clock} (h : c.Orderly) (ha : ∀ r, c.phase ≠ .acquiring r) :
    c.loop ≠ .starting := fun hs => by
  obtain ⟨r, hr, -⟩ := h.starting.1 hs
  exact ha r hr

/-- The draining of a switch ends (R88, R89). -/
theorem works_endDraining {s : State} (ho : s.clock.Orderly) {r : ClockSetting} (hp : s.clock.phase = .draining r)
    (hc : s.calibration ≠ none) : Works (s.endDraining r) := by
  have hr : r ≠ ⟨.multiplied, .d1⟩ := ho.request r (by rw [hp]; rfl)
  have hst : s.clock.loop ≠ .starting := ho.not_starting fun _ h => by rw [hp] at h; cases h
  have hrun : s.clock.run = none := by
    by_contra h
    obtain ⟨r', h', -⟩ := ho.watched h
    rw [hp] at h'
    cases h'
  unfold State.endDraining State.acquire
  split
  · rename_i hsame
    split
    · exact works_switchFailed (s := { s with
        converter := .held, work := none, clock := { s.clock with phase := .acquiring r } })
        ⟨ho.measured, ho.locked, ho.active⟩ hst hc r _
    · exact works_switchDone hr (fun h => ho.measured.2 (hsame.symm.trans h)) (fun h => ho.locked.2 (hsame.symm.trans h)) hst
  · rename_i hother
    split
    · rename_i hm
      exact works_switchDone hr (fun h => by rw [hm] at h; cases h) (fun h => by rw [hm] at h; cases h) hst
    · rename_i hm
      have hnm : s.clock.active.mode ≠ .multiplied := fun h => hother (hm.trans h.symm)
      refine works_of_held rfl rfl ?_ (r := r) rfl hc
      refine ⟨⟨ho.measured, ?_, ho.active⟩, ?_, ?_, ?_, ?_, ?_, ?_⟩
      · exact ⟨Loop.noConfusion, fun h => absurd h hnm⟩
      · exact ⟨fun _ => ⟨r, rfl⟩, fun _ => Option.some_ne_none _⟩
      · rintro r' h
        cases h
        exact ⟨by rw [hm]; exact ClockMode.noConfusion, hother⟩
      · exact ⟨fun _ => ⟨r, rfl, hm⟩, fun _ => rfl⟩
      · rintro r' h
        cases h
        exact hr
      · exact fun h => absurd hrun h
      · exact ho.run
    · rename_i hm
      refine works_of_held rfl rfl ?_ (r := r) rfl hc
      refine ⟨⟨ho.measured, ho.locked, ho.active⟩, ?_, ?_, ?_, ?_, ?_, ?_⟩
      · exact ⟨fun _ => ⟨r, rfl⟩, fun _ => Option.some_ne_none _⟩
      · rintro r' h
        cases h
        exact ⟨by rw [hm]; exact ClockMode.noConfusion, hother⟩
      · refine ⟨fun h => absurd h hst, ?_⟩
        rintro ⟨r', h, hm'⟩
        cases h
        rw [hm] at hm'
        cases hm'
      · rintro r' h
        cases h
        exact hr
      · exact fun h => absurd rfl h
      · rintro x h
        cases h

/-- The converter's work ends, with a calibration in hand (R75, R81, R82). -/
theorem Works.workEnds {s : State} (h : Works s) (hh : s.converter ≠ .held) (hc : s.calibration ≠ none) :
    Works s.workEnds := by
  unfold State.workEnds
  split
  · rename_i r hp
    exact works_endDraining h.1.orderly hp hc
  · rename_i hp
    have hi : Works { s with converter := .idle, work := none } := works_of_idle rfl rfl hc hp h.1.orderly
    exact hi.consult
  · rename_i r hp
    exact absurd hp (h.not_acquiring hh r)

theorem Works.decideChain {s : State} (h : Works s) {c : Copy} {taken : Nat} {sum : Int} {full : Bool}
    (hs : s.converter = .sampling c taken sum full) : Works (s.decideChain c) := by
  have hh : s.converter ≠ .held := by rw [hs]; exact Converter.noConfusion
  have hk : s.converter ≠ .calibrating := by rw [hs]; exact Converter.noConfusion
  have hc := h.calibration_ne hk
  have hpos := h.2.position c (by rw [hs]; rfl)
  have hb : ∀ l, Works (s.chainBroken l).workEnds := fun l =>
    Works.workEnds (s := s.chainBroken l) (h.same (.raise _ _ _)) hh hc
  unfold State.decideChain
  split
  · exact h.workEnds hh hc
  · split
    · split
      · exact hb _
      · exact h.workEnds hh hc
    · split
      · split
        · exact hb _
        · exact h.begin hh hk _ _ (by omega)
      · exact h.workEnds hh hc

/-- CLOCK_SET is adopted while no switch is in progress (R87). -/
theorem Works.startSwitch {s : State} (h : Works s) {r : ClockSetting} (hp : s.clock.phase = .none)
    (hr : r ≠ ⟨.multiplied, .d1⟩) : Works (s.startSwitch r) := by
  have ho := h.1.orderly
  have hst : s.clock.loop ≠ .starting := ho.not_starting fun _ hq => by rw [hp] at hq; cases hq
  have hrun : s.clock.run = none := by
    by_contra hn
    obtain ⟨r', h', -⟩ := ho.watched hn
    rw [hp] at h'
    cases h'
  have hdl : s.clock.deadline = none := by
    by_contra hn
    obtain ⟨r', h'⟩ := ho.deadline.1 hn
    rw [hp] at h'
    cases h'
  have hd : Clock.Orderly { s.clock with phase := .draining r } := by
    refine ⟨⟨ho.measured, ho.locked, ho.active⟩, ?_, ?_, ?_, ?_, ?_, ho.run⟩
    · exact ⟨fun hn => absurd hdl hn, fun ⟨_, hq⟩ => by cases hq⟩
    · rintro r' hq
      cases hq
    · exact ⟨fun hs => absurd hs hst, fun ⟨_, hq, _⟩ => by cases hq⟩
    · rintro r' hq
      cases hq
      exact hr
    · exact fun hn => absurd hrun hn
  have hnh : s.converter ≠ .held := fun hc => by
    obtain ⟨r', h'⟩ := h.1.held.1 hc
    rw [hp] at h'
    cases h'
  unfold State.startSwitch
  split
  · exact h
  · by_cases hi : s.converter = .idle
    · rw [hi]
      exact works_endDraining (s := { s with clock := { s.clock with phase := .draining r } }) hd rfl
        (h.calibration_ne (by rw [hi]; exact Converter.noConfusion))
    · have hw : Works { s with clock := { s.clock with phase := .draining r } } :=
        works_of_busy hi hnh (h.2.working hi hnh) hd (fun _ => SwitchPhase.noConfusion) h.2.position h.2.sum
          h.2.calibrated
      simp only
      split
      · exact absurd (by assumption) hi
      all_goals exact hw

end Sys2Proof.Machine
end

section
/-! What leaves the converter and the Sampling Clock alone, and the laws of both along the acts. -/

namespace Sys2Proof.Machine

theorem SameWork.discardTicket (s : State) (e : EntryId) (c : Option DiscardCause) :
    SameWork s (s.discardTicket e c) := by
  refine ⟨?_, ?_, ?_, ?_⟩ <;> rw [discardTicket_frame]

theorem SameWork.leaveScope (s : State) (e : EntryId) (b : Bool) : SameWork s (s.leaveScope e b) := by
  refine ⟨?_, ?_, ?_, ?_⟩ <;> rw [leaveScope_frame]

theorem SameWork.freeItems (s : State) (p : Port) : SameWork s (s.freeItems p) := by
  refine ⟨?_, ?_, ?_, ?_⟩ <;> rw [freeItems_frame]

theorem proposal_freeItems (s : State) (p : Port) : (s.freeItems p).proposal = s.proposal := by rw [freeItems_frame]

theorem SameWork.reaches {s t : State} (h : Reaches s t) : SameWork s t := by
  refine ⟨?_, ?_, ?_, ?_⟩ <;> rw [h.rest]

theorem SameWork.deliver (s : State) (c : Copy) (v : BitVec 16) (full : Bool) : SameWork s (s.deliver c v full) := by
  have hw : SameWork s (s.writeResult c v full) := by
    unfold State.writeResult
    simp only
    split
    · exact ⟨rfl, rfl, rfl, rfl⟩
    · exact ⟨rfl, rfl, rfl, rfl⟩
  exact hw.trans (.reaches ((Reaches.completionNotice _ _ _ _).trans (.evaluateAll _ _ _)))

theorem SameWork.reserve (s : State) (x : Subject) : SameWork s (s.reserve x) := by
  cases x with
  | entrySet e c => rw [reserve_entrySet]; split <;> exact ⟨rfl, rfl, rfl, rfl⟩
  | monitorSet m c => rw [reserve_monitorSet]; split <;> exact ⟨rfl, rfl, rfl, rfl⟩
  | _ => exact .refl s

theorem SameWork.unreserve (s : State) (x : Subject) : SameWork s (s.unreserve x) := by
  cases x with
  | entrySet e c => rw [unreserve_entrySet]; split <;> exact ⟨rfl, rfl, rfl, rfl⟩
  | monitorSet m c => rw [unreserve_monitorSet]; split <;> exact ⟨rfl, rfl, rfl, rfl⟩
  | _ => exact .refl s

/-! ### Adoptions and closes -/

/-- CLOCK_SET stands only while no switch is in progress, and never for MULTIPLIED divided by 1. -/
def Subject.Switchable (c : Clock) : Subject → Prop
  | .clockSet r => c.phase = .none ∧ r ≠ ⟨.multiplied, .d1⟩
  | _ => True

theorem switchable_of_stands {s : State} {x : Subject} (h : subjectStands s x) : x.Switchable s.clock := by
  cases x with
  | clockSet r => exact h
  | _ => trivial

theorem Subject.Checked.switchable {s : State} {x : Subject} (h : x.Checked s) : x.Switchable s.clock := by
  cases x with
  | clockSet r => exact h
  | _ => trivial

theorem Works.install {s : State} (h : Works s) {x : Subject} (hx : x.Switchable s.clock) : Works (s.install x) := by
  cases x with
  | entrySet e c =>
    show Works (s.installEntry e c)
    unfold State.installEntry
    split
    · exact h.same ⟨rfl, rfl, rfl, rfl⟩
    · exact h.same ⟨rfl, rfl, rfl, rfl⟩
    · exact (h.same (.discardTicket s e (some .edited))).same ⟨rfl, rfl, rfl, rfl⟩
    · exact h
  | entryRemove e => exact h.same (.leaveScope s e true)
  | monitorSet m c =>
    show Works (s.installMonitor m c)
    unfold State.installMonitor
    split
    · exact h.same ⟨rfl, rfl, rfl, rfl⟩
    · exact h.same ⟨rfl, rfl, rfl, rfl⟩
    · exact h.same ⟨rfl, rfl, rfl, rfl⟩
    · exact h
  | monitorRemove m => exact h.same ⟨rfl, rfl, rfl, rfl⟩
  | clockSet r => exact h.startSwitch hx.1 hx.2
  | timerSet k period run => exact h.same ⟨rfl, rfl, rfl, rfl⟩
  | pinSet k edge => exact h.same ⟨rfl, rfl, rfl, rfl⟩
  | agingSet period => exact h.same ⟨rfl, rfl, rfl, rfl⟩
  | windowSet window => exact h.same ⟨rfl, rfl, rfl, rfl⟩

theorem Works.close {s : State} (h : Works s) {pr : Proposal} (hx : pr.subject.Switchable s.clock)
    (o : ProposalOutcome) : Works (s.close pr o) := by
  have hu : Works (({ s with proposal := none } : State).raise (.proposal pr.id o pr.author) pr.parties) :=
    h.same ⟨rfl, rfl, rfl, rfl⟩
  unfold State.close
  cases o with
  | opened => exact hu
  | adopted => exact hu.install hx
  | refused => exact hu.same (.unreserve _ _)
  | expired => exact hu.same (.unreserve _ _)
  | withdrawn => exact hu.same (.unreserve _ _)

/-- A session end at the Proposal Slot, where the open proposal's subject stands. -/
theorem Works.partyLeaves {s : State} (h : Works s) (hx : ∀ pr, s.proposal = some pr → pr.subject.Switchable s.clock)
    (p : Port) : Works (s.partyLeaves p) := by
  unfold State.partyLeaves
  split
  · exact h
  · rename_i pr hp
    split
    · exact h.close (hx pr hp) _
    · split
      · split
        · exact Works.close h (pr := pr.without p) (hx pr hp) .adopted
        · exact h.same ⟨rfl, rfl, rfl, rfl⟩
      · exact h

theorem Works.counted {s : State} (h : Works s) {pr : Proposal} (hx : pr.subject.Switchable s.clock) (p : Port)
    (accept : Bool) : Works (s.counted pr p accept).1 := by
  unfold State.counted
  split
  · split
    · exact Works.close h (pr := pr.acceptedBy p) hx .adopted
    · exact h.same ⟨rfl, rfl, rfl, rfl⟩
  · exact Works.close h hx .refused

theorem Works.propose {s : State} (h : Works s) (p : Port) {x : Subject} (hx : x.Switchable s.clock) :
    Works (s.proposed p x).1 := by
  unfold State.proposed
  split
  · exact Works.install (s := { s with nextId := s.nextId + 1 }) (h.same ⟨rfl, rfl, rfl, rfl⟩) hx
  · show Works (s.openProposal p x)
    rw [openProposal_eq]
    have hw : SameWork s (s.withOpening p x) := ⟨rfl, rfl, rfl, rfl⟩
    exact h.same ((hw.trans (.reserve _ x)).trans (.raise _ _ _))

/-! ### Conversions and acquisitions -/

/-- A sample code is in the range of its kind (R67). -/
theorem sampleCode_mem (cal : Option Calibration) (c : Copy) (x : Analog) :
    lowCode c ≤ sampleCode cal c x ∧ sampleCode cal c x ≤ highCode c := by
  have h : lowCode c ≤ highCode c := by
    unfold lowCode highCode
    split <;> omega
  unfold sampleCode clampCode
  split
  · omega
  · split
    · omega
    · split
      · omega
      · split <;> omega

theorem one_le_avgCount (a : Averaging) : 1 ≤ avgCount a := by cases a <;> decide

theorem Works.sampled {s : State} (h : Works s) {c : Copy} {taken : Nat} {sum : Int} {full : Bool} (full' : Bool)
    (x : Analog) (hc : s.converter = .sampling c taken sum full) (hn : taken + 1 < avgCount c.avg) :
    Works { s with
      converter := .sampling c (taken + 1) (sum + sampleCode s.calibration c x) full'
      work := workLeft s.clock.active samplePeriods } := by
  have hpos := h.2.position c (by rw [hc]; rfl)
  obtain ⟨-, hlo, hhi⟩ := h.2.sum c taken sum full hc
  obtain ⟨clo, chi⟩ := sampleCode_mem s.calibration c x
  refine works_of_busy Converter.noConfusion Converter.noConfusion (Option.some_ne_none _) h.1.orderly
    (h.not_acquiring (by rw [hc]; exact Converter.noConfusion)) ?_ ?_
    fun hn => absurd hn (h.calibration_ne (by rw [hc]; exact Converter.noConfusion))
  · intro d hd
    cases hd
    exact hpos
  · intro d taken' sum' full'' hd
    cases hd
    refine ⟨hn, ?_, ?_⟩
    · push_cast
      linarith
    · push_cast
      linarith

theorem Works.settled {s : State} (h : Works s) {c : Copy} (hc : s.converter = .settling c) :
    Works { s with converter := .sampling c 0 0 false, work := workLeft s.clock.active samplePeriods } := by
  have hpos := h.2.position c (by rw [hc]; rfl)
  refine works_of_busy Converter.noConfusion Converter.noConfusion (Option.some_ne_none _) h.1.orderly
    (h.not_acquiring (by rw [hc]; exact Converter.noConfusion)) ?_ ?_
    fun hn => absurd hn (h.calibration_ne (by rw [hc]; exact Converter.noConfusion))
  · intro d hd
    cases hd
    exact hpos
  · intro d taken' sum' full'' hd
    cases hd
    exact ⟨one_le_avgCount _, by simp, by simp⟩

theorem Inner.keepsWorks {s t : State} (h : Inner s t) (hw : Works s) : Works t := by
  have ho := hw.1.orderly
  have hcal : ∀ {r}, s.clock.phase = .acquiring r → s.calibration ≠ none := fun hp =>
    hw.calibration_ne (by rw [hw.1.held.2 ⟨_, hp⟩]; exact Converter.noConfusion)
  have hreq : ∀ {r}, s.clock.phase = .acquiring r → r ≠ ⟨.multiplied, .d1⟩ := fun hp =>
    ho.request _ (by rw [hp]; rfl)
  have hnot : ∀ {r}, s.clock.phase = .acquiring r → r.mode ≠ .multiplied → s.clock.loop ≠ .starting := by
    intro r hp hm hs
    obtain ⟨r', hp', hm'⟩ := ho.starting.1 hs
    cases hp.symm.trans hp'
    exact hm hm'
  cases h with
  | request p e => exact (hw.same (.reaches (.trigger s e (.port p)))).consult
  | cancel e => exact hw.same ⟨rfl, rfl, rfl, rfl⟩
  | setTimer k x => exact hw.same ⟨rfl, rfl, rfl, rfl⟩
  | acceptLevel k l => exact hw.same ⟨rfl, rfl, rfl, rfl⟩
  | fanOut tr o => exact (hw.same (.reaches (.triggerAll s _ o))).consult
  | settled c hc => exact hw.settled hc
  | sampled c taken sum full full' x hc hn => exact hw.sampled full' x hc hn
  | completed c taken sum sum' full full' hc =>
    have hd := SameWork.deliver s c (resultValue sum' c.avg) full'
    exact (hw.same hd).decideChain (hd.converter.trans hc)
  | calibrated found hc =>
    have hw' : Works { s with calibration := some found } := by
      obtain ⟨h1, h2⟩ := hw
      exact ⟨clockLaw_of_orderly h1.orderly h1.held h1.draining, h2.resting, h2.working, h2.position, h2.sum,
        fun hn => absurd hn (Option.some_ne_none _)⟩
    exact hw'.workEnds (s := { s with calibration := some found }) (by rw [hc]; exact Converter.noConfusion)
      (Option.some_ne_none _)
  | locked r hp hl =>
    obtain ⟨r', hp', hm⟩ := ho.starting.1 hl
    cases hp.symm.trans hp'
    exact works_switchDone (hreq hp) (fun h => by rw [hm] at h; cases h) (fun _ => rfl) Loop.noConfusion
  | qualified r edges hp hm =>
    have hnm : r.mode ≠ .multiplied := by rw [hm]; exact ClockMode.noConfusion
    unfold State.qualify
    split
    · exact works_switchFailed ho.toSourced (hnot hp hnm) (hcal hp) r _
    · exact works_switchDone (hreq hp) (fun _ => Option.some_ne_none _) (fun h => absurd h hnm) (hnot hp hnm)
  | timedOut r hp =>
    unfold State.acquisitionFails
    split
    · rename_i hm
      refine works_switchFailed (s := { s with clock := { s.clock with loop := .stopped } }) ⟨ho.measured, ?_, ho.active⟩
        Loop.noConfusion (hcal hp) r _
      exact ⟨Loop.noConfusion, fun h => absurd (hm.trans h.symm) (ho.acquiring r hp).2⟩
    · rename_i hm
      exact works_switchFailed ho.toSourced (hnot hp (by rw [hm]; exact ClockMode.noConfusion)) (hcal hp) r _
    · exact hw

theorem Act.keepsWorks {who : Option Port} {s t : State} (h : Act who s t) (hw : Works s) (hp : ProposalLaw s) :
    Works t := by
  have hx : ∀ pr, s.proposal = some pr → pr.subject.Switchable s.clock := fun pr h =>
    switchable_of_stands (hp.subject pr h)
  cases h with
  | port => exact hw.same ⟨rfl, rfl, rfl, rfl⟩
  | attach => exact hw.same ⟨rfl, rfl, rfl, rfl⟩
  | detach p detail =>
    have hport : SameWork s (s.setPort p (s.port p).leave) := ⟨rfl, rfl, rfl, rfl⟩
    have hc : ((s.setPort p (s.port p).leave).freeItems p).clock = s.clock := (SameWork.freeItems _ p).clock
    have hpr : ((s.setPort p (s.port p).leave).freeItems p).proposal = s.proposal :=
      proposal_freeItems _ p
    refine (hw.same ((hport.trans (.freeItems _ p)).trans (.raise _ _ _))).partyLeaves (fun pr h => ?_) p
    rw [State.proposal_raise, hpr] at h
    rw [State.clock_raise, hc]
    exact hx pr h
  | claimEntry => exact hw.same ⟨rfl, rfl, rfl, rfl⟩
  | writeEntry p e raw c ho hc => exact (hw.same (.discardTicket s e (some .edited))).same ⟨rfl, rfl, rfl, rfl⟩
  | releaseEntry p e => exact hw.same (.leaveScope s e true)
  | claimMonitor => exact hw.same ⟨rfl, rfl, rfl, rfl⟩
  | writeMonitor => exact hw.same ⟨rfl, rfl, rfl, rfl⟩
  | releaseMonitor => exact hw.same ⟨rfl, rfl, rfl, rfl⟩
  | propose p raw x ha hn hb hr => exact hw.propose p (readSubject_checked hr hb).switchable
  | vote p pr accept h => exact hw.counted (hx pr h) p accept
  | close pr o h => exact hw.close (hx pr h) o
  | inner h => exact h.keepsWorks hw

/-! ### Time and CLKIN -/

/-- While no qualification is due, a run of CLKIN has not yet lasted 256 µs. -/
theorem Clock.Orderly.length_lt {s : State} (h : s.clock.Orderly) (hd : s.dueQualification = []) {x : ClkinRun}
    (hx : s.clock.run = some x) : x.length < 20480 := by
  have hl := (h.run x hx).lasted
  have hw : s.clock.watching = true := watching_iff.2 (h.watched (by simp [hx]))
  refine lt_of_le_of_ne hl fun heq => ?_
  unfold State.dueQualification at hd
  rw [hx, hw] at hd
  simp [ClkinRun.lasted, heq] at hd

/-- A clock whose run of CLKIN alone changes. -/
theorem Clock.Orderly.setRun {c : Clock} (h : c.Orderly) {o : Option ClkinRun}
    (hw : o ≠ none → ∃ r, c.phase = .acquiring r ∧ r.mode = .external) (hr : ∀ x, o = some x → RunLaw x) :
    Clock.Orderly { c with run := o } :=
  ⟨⟨h.measured, h.locked, h.active⟩, h.deadline, h.acquiring, h.starting, h.request, hw, hr⟩

/-- Work is counted down, and the clock's run goes on. -/
theorem Works.count {s t : State} (h : Works s) (hc : t.converter = s.converter) (hk : t.calibration = s.calibration)
    (hw : t.work = none ↔ s.work = none) {o : Option ClkinRun} (hclk : t.clock = { s.clock with run := o })
    (ho : t.clock.Orderly) : Works t := by
  obtain ⟨h1, h2⟩ := h
  have hp : t.clock.phase = s.clock.phase := by rw [hclk]
  refine ⟨clockLaw_of_orderly ho (by rw [hc, hp]; exact h1.held) (by rw [hc, hp]; exact h1.draining), ?_, ?_, ?_, ?_, ?_⟩
  · rw [hc, hw]
    exact h2.resting
  · rw [hc, ne_eq, ne_eq, ne_eq, hw]
    exact h2.working
  · rw [hc]
    exact h2.position
  · rw [hc]
    exact h2.sum
  · rw [hc, hk]
    exact h2.calibrated

theorem Works.tick {s : State} (h : Works s) (hh : s.resetHeld = false) (hd : s.dueQualification = []) :
    Works s.tick := by
  have ho := h.1.orderly
  rw [State.tick, if_neg (by simp [hh])]
  refine h.count (o := s.clock.run.bind ClkinRun.tick) rfl rfl ?_ rfl (ho.setRun (fun hn => ?_) fun y hy => ?_)
  · show (if s.clock.active.mode = .external then s.work else s.work.map (· - 1)) = none ↔ s.work = none
    split
    · exact .rfl
    · exact Option.map_eq_none_iff
  · exact ho.watched fun hr => hn (by rw [hr]; rfl)
  · obtain ⟨x, hx, hxy⟩ := Option.bind_eq_some_iff.1 hy
    exact (ho.run x hx).of_tick (ho.length_lt hd hx) hxy

theorem Works.clkinEdge {s : State} (h : Works s) (hd : s.dueQualification = []) : Works s.clkinEdge := by
  have ho := h.1.orderly
  refine h.count (o := if s.clock.watching then some (.next s.clock.run) else s.clock.run) rfl rfl ?_ rfl
    (ho.setRun (fun hn => ?_) fun y hy => ?_)
  · show (if s.clock.active.mode = .external then s.work.map (· - 1) else s.work) = none ↔ s.work = none
    split
    · exact Option.map_eq_none_iff
    · exact .rfl
  · by_cases hw : s.clock.watching = true
    · exact watching_iff.1 hw
    · rw [if_neg hw] at hn
      exact ho.watched hn
  · split at hy
    · cases hy
      exact runLaw_next fun x hx => ⟨ho.run x hx, ho.length_lt hd hx⟩
    · exact ho.run y hy

/-! ### Resets -/

theorem orderly_reset : Clock.reset.Orderly :=
  Clock.Sourced.orderly ⟨by decide, by decide, by decide⟩ rfl rfl (by decide) rfl

theorem works_deviceReset (cause : ResetCause) (s : State) : Works (deviceResetEvent cause s) :=
  works_of_calibrating rfl (Option.some_ne_none _) orderly_reset fun _ => SwitchPhase.noConfusion

/-- At the release the clock is as the reset left it. -/
theorem works_resetRelease {s : State} (hl : HeldLaw s) (hh : s.resetHeld = true) : Works (resetReleaseEvent s) := by
  rw [resetReleaseEvent, if_pos hh]
  have hclk : s.clock = .reset := congrArg State.clock (hl hh).1
  refine works_of_calibrating rfl (Option.some_ne_none _) ?_ fun r => ?_
  · show s.clock.Orderly
    rw [hclk]
    exact orderly_reset
  · show s.clock.phase ≠ .acquiring r
    rw [hclk]
    exact SwitchPhase.noConfusion

/-! ### The laws are kept -/

theorem Change.keepsWorks {who : Option Port} {s t : State} (hc : Change who s t) (hs : Works s) (hp : ProposalLaw s)
    (hl : HeldLaw s) : Works t := by
  cases hc with
  | same => exact hs
  | frame p f => exact hs.same ⟨rfl, rfl, rfl, rfl⟩
  | release hh => exact works_resetRelease hl hh
  | acts _ h =>
    exact (h.keep (P := fun u => Works u ∧ ProposalLaw u)
      (fun _ _ ha hu => ⟨ha.keepsWorks hu.1 hu.2, ha.keepsProposalLaw hu.2⟩) ⟨hs, hp⟩).1

/-- Settles O59: with the laws of the Proposal Slot and of a held reset, which say what an adoption and a release find. -/
theorem stepKeepsClockAndConverter : Obligations.StepKeepsClockAndConverter := by
  unfold Obligations.StepKeepsClockAndConverter
  intro s t hclk hconv hp hl h
  have hkeep : Works t ∧ ProposalLaw t ∧ HeldLaw t := by
    refine step_keeps (P := fun u => Works u ∧ ProposalLaw u ∧ HeldLaw u) ?change ?reset ?pending ?spend ?tick ?edge
      ⟨⟨hclk, hconv⟩, hp, hl⟩ h
    case change =>
      exact fun _ _ _ hc ⟨h1, h2, h3⟩ => ⟨hc.keepsWorks h1 h2 h3, hc.keepsProposalLaw h2, hc.keepsHeldLaw h3⟩
    case reset => exact fun c s _ => ⟨works_deviceReset c s, proposalLaw_deviceReset c s, heldLaw_deviceReset c s⟩
    case pending =>
      exact fun s l ⟨h1, h2, h3⟩ => ⟨h1.same ⟨rfl, rfl, rfl, rfl⟩, h2.stays (.of_eq rfl rfl rfl rfl id), h3⟩
    case spend => exact fun s ⟨h1, h2, h3⟩ => ⟨h1.same ⟨rfl, rfl, rfl, rfl⟩, h2.stays (.of_eq rfl rfl rfl rfl id), h3⟩
    case tick =>
      intro s hh hd ⟨h1, h2, _⟩
      refine ⟨h1.tick hh hd, h2.tick, .of_released ?_⟩
      rw [State.tick, if_neg (by simp [hh])]
      exact hh
    case edge =>
      exact fun s hh hd ⟨h1, h2, _⟩ => ⟨h1.clkinEdge hd, h2.stays (.of_eq rfl rfl rfl rfl id), .of_released hh⟩
  exact hkeep.1

end Sys2Proof.Machine
end

section
/-! Steps, time and resets: the front command, what happens while none waits, the passing of time, device reset and release. -/

namespace Sys2Proof.Machine

/-- Settles O1. -/
theorem stepTakesFrontCommand : Obligations.StepTakesFrontCommand := by
  intro c rest s h
  rw [step, h]

/-! ### The events that are due -/

theorem mem_dueTimers {s : State} {c : Instr} :
    c ∈ s.dueTimers ↔ ∃ k, c = .timerExpiry k ∧ (s.timer k).run = .running s.timebase := by
  simp only [State.dueTimers, List.mem_map, List.mem_filter, List.mem_finRange, true_and, beq_iff_eq]
  exact ⟨fun ⟨k, hk, hc⟩ => ⟨k, hc.symm, hk⟩, fun ⟨k, hc, hk⟩ => ⟨k, hk, hc.symm⟩⟩

theorem mem_allPorts (p : Port) : p ∈ allPorts := by cases p <;> simp [allPorts]

theorem mem_dueSessions {s : State} {c : Instr} : c ∈ s.dueSessions ↔
    ∃ p, c = .sessionExpiry p ∧ (s.port p).attached = true ∧ (s.port p).deadline = some s.timebase := by
  simp only [State.dueSessions, List.mem_map, List.mem_filter, mem_allPorts, true_and, Bool.and_eq_true, beq_iff_eq]
  exact ⟨fun ⟨p, hp, hc⟩ => ⟨p, hc.symm, hp⟩, fun ⟨p, hc, hp⟩ => ⟨p, hp, hc.symm⟩⟩

theorem mem_dueProposal {s : State} {c : Instr} : c ∈ s.dueProposal ↔
    c = .proposalExpiry ∧ ∃ pr, s.proposal = some pr ∧ pr.deadline = s.timebase := by
  unfold State.dueProposal
  rcases s.proposal with _ | pr
  · simp
  · by_cases hd : pr.deadline = s.timebase <;> simp [hd]

theorem mem_dueAcquisition {s : State} {c : Instr} : c ∈ s.dueAcquisition ↔
    c = .acquisitionDeadlineExpiry ∧ s.clock.deadline = some s.timebase ∧
      ∃ r, s.clock.phase = .acquiring r ∧ r.mode ≠ .internal := by
  unfold State.dueAcquisition
  rcases s.clock.phase with _ | r | r
  · simp
  · simp
  · by_cases hd : r.mode ≠ .internal ∧ s.clock.deadline = some s.timebase
    · simp [hd]
    · simp only [if_neg hd, List.not_mem_nil, false_iff]
      rintro ⟨-, hdl, r', hr, hm⟩
      cases hr
      exact hd ⟨hm, hdl⟩

theorem mem_dueQualification {s : State} {c : Instr} : c ∈ s.dueQualification ↔
    ∃ x, c = .qualification x.edges ∧ s.clock.run = some x ∧ x.length = 256 * 80 ∧
      ∃ r, s.clock.phase = .acquiring r ∧ r.mode = .external := by
  rw [← watching_iff]
  unfold State.dueQualification
  rcases s.clock.run with _ | x
  · simp
  · by_cases hd : s.clock.watching = true ∧ x.length = 20480
    · simp [hd, ClkinRun.lasted]
    · have hn : ¬(s.clock.watching && x.lasted) = true := by simpa [ClkinRun.lasted] using hd
      simp only [if_neg hn, List.not_mem_nil, false_iff]
      rintro ⟨y, -, hy, hl, hw⟩
      cases hy
      exact hd ⟨hw, hl⟩

theorem mem_dueConverter {s : State} {c : Instr} : c ∈ s.dueConverter ↔ s.work = some 0 ∧
    ((c = .endOfSettling ∧ ∃ copy, s.converter = .settling copy) ∨
     (c = .endOfSample s.freeAnalog ∧
       ∃ copy taken sum full, s.converter = .sampling copy taken sum full ∧ taken + 1 < avgCount copy.avg) ∨
     (c = .completion s.freeAnalog ∧
       ∃ copy taken sum full, s.converter = .sampling copy taken sum full ∧ avgCount copy.avg ≤ taken + 1) ∨
     (c = .calibrationEnd (Config.calibrationAt s.fresh) ∧ s.converter = .calibrating)) := by
  unfold State.dueConverter
  by_cases hw : s.work = some 0
  · rw [if_pos hw]
    rcases hc : s.converter with _ | _ | copy | ⟨copy, taken, sum, full⟩ | _
    case sampling =>
      by_cases hn : taken + 1 < avgCount copy.avg
      · simp [hn, hw]
      · simp [hn, hw, Nat.not_lt.1 hn]
    all_goals simp [hw]
  · simp [hw]

theorem dueEvents_of_held {s : State} (h : s.resetHeld = true) : s.dueEvents = [] := if_pos h

theorem mem_dueEvents {s : State} (h : s.resetHeld = false) (c : Instr) : c ∈ s.dueEvents ↔
    c ∈ s.dueTimers ∨ c ∈ s.dueSessions ∨ c ∈ s.dueProposal ∨ c ∈ s.dueAcquisition ∨ c ∈ s.dueQualification ∨
      c ∈ s.dueConverter := by
  rw [State.dueEvents, if_neg (by simp [h])]
  simp only [List.mem_append, or_assoc]

/-! ### No command waits -/

theorem step_of_nothing_due {s : State} (hp : s.pending = []) (hd : s.dueEvents = []) : step s = .next s.elapse := by
  rw [step, hp, nextDue_eq_none.2 hd]

theorem step_of_due {s : State} (hp : s.pending = []) (hd : s.dueEvents ≠ []) :
    ∃ c ∈ s.dueEvents, step s = exec c { s with fresh := s.fresh + 1 } := by
  rcases hn : s.nextDue with _ | c
  · exact absurd (nextDue_eq_none.1 hn) hd
  · refine ⟨c, nextDue_mem hn, ?_⟩
    show step s = exec c s.spendFresh
    rw [step, hp, hn]

/-- A rising edge of CLKIN where it is not watched leaves the run. -/
theorem run_clkinEdge_of_not_watching {s : State} (h : ¬s.clock.watching = true) :
    s.clkinEdge.clock.run = s.clock.run := if_neg h

theorem run_clkinEdge_of_watching {s : State} (h : s.clock.watching = true) :
    s.clkinEdge.clock.run = some (.next s.clock.run) := if_pos h

theorem next_of_long {x : ClkinRun} (h : 2 ≤ x.since) : ClkinRun.next (some x) = ⟨x.edges + 1, x.length, 0⟩ := if_pos h

theorem next_of_short {x : ClkinRun} (h : x.since < 2) : ClkinRun.next (some x) = ⟨1, 0, 0⟩ := if_neg (Nat.not_le.2 h)

/-- Settles O2: what is due, list by list, and what passes when nothing is. -/
theorem emptyQueueLetsTimeAct : Obligations.EmptyQueueLetsTimeAct := by
  refine ⟨fun s hp => ⟨fun hd => ⟨fun hn => ?off, fun hr hon => ?on⟩, step_of_due hp⟩,
    fun s => ⟨Nat.succ_pos _, dueEvents_of_held⟩, fun s c hr => ?due⟩
  case off =>
    rw [step_of_nothing_due hp hd, elapse_of_not_onClkin]
    rw [onClkin_iff]
    rintro ⟨hr, ⟨hm, hw⟩ | ⟨r, hq, hm⟩⟩
    · rcases hn with hh | ⟨hno, -⟩
      · exact absurd (hr.symm.trans hh) (by simp)
      · exact hno.elim (fun h => h hm) hw
    · rcases hn with hh | ⟨-, hno⟩
      · exact absurd (hr.symm.trans hh) (by simp)
      · exact hno r hq hm
  case on =>
    rw [step_of_nothing_due hp hd]
    rcases elapse_of_onClkin (onClkin_iff.2 ⟨hr, hon⟩) with he | he
    · exact .inl (congrArg _ he)
    · refine .inr ⟨s.spendFresh.clkinEdge, congrArg _ he, rfl, fun hno => ?_, fun hw => ?_⟩
      · exact run_clkinEdge_of_not_watching fun hw => by
          obtain ⟨r, hq, hm⟩ := watching_iff.1 hw
          exact hno r hq hm
      · rw [run_clkinEdge_of_watching (s := s.spendFresh) (watching_iff.2 hw)]
        refine ⟨fun hx => ?_, fun x hx => ⟨fun hl => ?_, fun hl => ?_⟩⟩
        · rw [show s.spendFresh.clock.run = none from hx]
          rfl
        · rw [show s.spendFresh.clock.run = some x from hx, next_of_long hl]
        · rw [show s.spendFresh.clock.run = some x from hx, next_of_short hl]
  case due =>
    rw [mem_dueEvents hr, mem_dueTimers, mem_dueSessions, mem_dueProposal, mem_dueAcquisition, mem_dueQualification,
      mem_dueConverter]

/-! ### The passing of time -/

theorem tick_of_held {s : State} (h : s.resetHeld = true) : s.tick = s := if_pos h

/-- What each count adds while no reset is held. -/
theorem tick_of_released {s : State} (h : s.resetHeld = false) : s.tick = { s with
    sub := s.sub + 1
    timebase := if s.sub = 79 then s.timebase + 1 else s.timebase
    work := if s.clock.active.mode = .external then s.work else s.work.map (· - 1)
    clock := { s.clock with run := s.clock.run.bind ClkinRun.tick }
    pins := s.pins.map Pin.tick
    ports := s.ports.mapIdx fun _ x => x.tick } := if_neg (by simp [h])

/-- `n` counts of 12.5 ns while no reset is held. -/
theorem ticks_of_released {s : State} (h : s.resetHeld = false) (n : Nat) :
    (s.ticks n).resetHeld = false ∧ (s.ticks n).sub.val = (s.sub.val + n) % 80 ∧
      (s.ticks n).timebase = s.timebase + BitVec.ofNat 32 ((s.sub.val + n) / 80) ∧
      (s.ticks n).clock.active = s.clock.active ∧
      (s.ticks n).work = if s.clock.active.mode = .external then s.work else s.work.map (· - n) := by
  induction n with
  | zero =>
    have hs := s.sub.isLt
    refine ⟨h, (Nat.mod_eq_of_lt hs).symm, ?_, rfl, ?_⟩
    · rw [Nat.add_zero, Nat.div_eq_of_lt hs]
      exact (BitVec.add_zero _).symm
    · show s.work = if s.clock.active.mode = .external then s.work else s.work.map (· - 0)
      cases s.work <;> simp
  | succ n ih =>
    obtain ⟨hr, hsub, htime, hact, hwork⟩ := ih
    have htick : s.ticks (n + 1) = (s.ticks n).tick := rfl
    rw [htick, tick_of_released hr]
    refine ⟨hr, ?_, ?_, hact, ?_⟩
    · show ((s.ticks n).sub + 1).val = _
      rw [Fin.val_add, hsub]
      show ((s.sub.val + n) % 80 + 1) % 80 = _
      omega
    · show (if (s.ticks n).sub = 79 then (s.ticks n).timebase + 1 else (s.ticks n).timebase) = _
      have h79 : (s.ticks n).sub = 79 ↔ (s.sub.val + n) % 80 = 79 := by
        rw [← hsub, Fin.ext_iff]
        rfl
      by_cases hd : (s.sub.val + n) % 80 = 79
      · have hq : (s.sub.val + (n + 1)) / 80 = (s.sub.val + n) / 80 + 1 := by omega
        rw [if_pos (h79.2 hd), htime, hq, BitVec.ofNat_add, BitVec.add_assoc]
        rfl
      · have hq : (s.sub.val + (n + 1)) / 80 = (s.sub.val + n) / 80 := by omega
        rw [if_neg (fun hc => hd (h79.1 hc)), htime, hq]
    · show (if (s.ticks n).clock.active.mode = .external then (s.ticks n).work else (s.ticks n).work.map (· - 1)) = _
      rw [hact, hwork]
      by_cases hm : s.clock.active.mode = .external
      · simp [hm]
      · simp only [if_neg hm, Option.map_map]
        rfl

/-- Settles O3. -/
theorem timebaseRuns : Obligations.TimebaseRuns := by
  intro s
  refine ⟨tick_of_held, fun h => ⟨tick_of_released h, ?_⟩⟩
  obtain ⟨-, hsub, htime, -, hwork⟩ := ticks_of_released h 80
  have hs := s.sub.isLt
  refine ⟨?_, Fin.ext ?_, hwork⟩
  · rw [htime, show (s.sub.val + 80) / 80 = 1 by omega]
    rfl
  · rw [hsub]
    omega

/-! ### Resets -/

/-- Settles O5. -/
theorem resetState : Obligations.ResetState :=
  ⟨fun e => Table.get_fill _ e, fun m => Table.get_fill _ m, fun i => Table.get_fill _ i, fun k => Table.get_fill _ k,
    fun k => Table.get_fill _ k, fun p => PerPort.get_fill _ p, rfl, rfl, rfl, rfl, rfl, rfl, rfl, rfl, rfl, rfl, rfl, rfl,
    rfl⟩

theorem exec_deviceReset (cause : ResetCause) (s : State) :
    exec (.deviceReset cause) s = .next (deviceResetEvent cause s) := rfl

theorem exec_resetRelease (s : State) : exec .resetRelease s = .next (resetReleaseEvent s) := rfl

/-- A frame in progress is abandoned. -/
theorem abandon_eq (f : FrameLine) : f.abandon = if f = .idle then .idle else .abandoned := by
  cases f <;> rfl

/-- Settles O6. -/
theorem deviceResetAndRelease : Obligations.DeviceResetAndRelease := by
  intro s cause
  refine ⟨⟨_, exec_deviceReset cause s, rfl, rfl, fun e => Table.get_fill _ e, fun m => Table.get_fill _ m,
    fun i => Table.get_fill _ i, fun k => Table.get_fill _ k, fun k => Table.get_fill _ k, rfl, rfl, rfl, rfl, rfl, rfl, rfl,
    rfl, rfl, fun p => ?port⟩, fun hh => ?release, fun hh => ?idle⟩
  case port =>
    rw [← abandon_eq]
    exact PerPort.get_mapIdx _ _ p
  case release => rw [exec_resetRelease, resetReleaseEvent, if_pos hh]
  case idle => rw [exec_resetRelease, resetReleaseEvent, if_neg (by simp [hh])]

/-- Settles O53: after the release of a power-up every block is at its reset state. -/
theorem resetIsSound : Obligations.ResetIsSound := by
  have he : ∀ e, State.reset.entry e = .free 0 := fun e => Table.get_fill _ e
  have hm : ∀ m, State.reset.monitor m = .free 0 := fun m => Table.get_fill _ m
  have hes : ∀ e, (State.reset.entry e).state = .free := fun e => congrArg Entry.state (he e)
  have hms : ∀ m, (State.reset.monitor m).state = .free := fun m => congrArg Monitor.state (hm m)
  have hw : Works State.reset :=
    works_of_calibrating rfl (Option.some_ne_none _) orderly_reset fun _ => SwitchPhase.noConfusion
  exact {
    queue := queueLaw_of_no_ticket rfl
    ports := fun p => by
      rw [show State.reset.port p = .reset .power from PerPort.get_fill _ p]
      exact portLaw_reset _ _
    owner := ownerLaw_of_free hes hms
    contents := contentsLaw_of_free he hm rfl
    proposal := .of_none rfl (fun e => by rw [hes]; exact ItemState.noConfusion)
      fun m => by rw [hms]; exact ItemState.noConfusion
    links := linkLaw_of_free hes hms rfl
    clock := hw.1
    converter := hw.2
    slots := slotLaw_of_reset fun i => Table.get_fill _ i
    held := .of_released rfl }

end Sys2Proof.Machine
end

section
/-! Frames: the checks of R171 one by one, what SDOx carries, frame errors, frames that are not judged and frames of detached
ports. -/

namespace Sys2Proof.Machine

/-! ### The judgement of a frame -/

/-- Every link command's argument bytes have the number that the table lists, and are read as the command. -/
theorem frame_statement (i : Instr) : Laws.Frame.Statement i := by
  cases i with
  | fetch p tag => exact Laws.Frame.fetch p tag
  | attach p tag timeout subs => exact Laws.Frame.attach p tag timeout subs
  | detach p tag => exact Laws.Frame.detach p tag
  | subscribe p tag subs => exact Laws.Frame.subscribe p tag subs
  | readStatus p tag => exact Laws.Frame.readStatus p tag
  | restate p tag => exact Laws.Frame.restate p tag
  | claimEntry p tag e => exact Laws.Frame.claimEntry p tag e
  | writeEntry p tag e c => exact Laws.Frame.writeEntry p tag e c
  | readEntry p tag e => exact Laws.Frame.readEntry p tag e
  | releaseEntry p tag e => exact Laws.Frame.releaseEntry p tag e
  | request p tag e => exact Laws.Frame.request p tag e
  | cancel p tag e => exact Laws.Frame.cancel p tag e
  | readSlots p tag first count => exact Laws.Frame.readSlots p tag first count
  | continueSlots p tag => exact Laws.Frame.continueSlots p tag
  | claimMonitor p tag m => exact Laws.Frame.claimMonitor p tag m
  | writeMonitor p tag m c => exact Laws.Frame.writeMonitor p tag m c
  | readMonitor p tag m => exact Laws.Frame.readMonitor p tag m
  | releaseMonitor p tag m => exact Laws.Frame.releaseMonitor p tag m
  | takeEvents p tag => exact Laws.Frame.takeEvents p tag
  | propose p tag x => exact Laws.Frame.propose p tag x
  | vote p tag id choice => exact Laws.Frame.vote p tag id choice
  | withdraw p tag id => exact Laws.Frame.withdraw p tag id
  | readProposal p tag => exact Laws.Frame.readProposal p tag
  | readCommon p tag => exact Laws.Frame.readCommon p tag
  | frameError p f => exact Laws.Frame.frameError p f
  | sessionExpiry p => exact Laws.Frame.sessionExpiry p
  | deviceReset c => exact Laws.Frame.deviceReset c
  | resetRelease => exact Laws.Frame.resetRelease
  | pinInitialLevel k l => exact Laws.Frame.pinInitialLevel k l
  | timerExpiry k => exact Laws.Frame.timerExpiry k
  | pinEdge k l => exact Laws.Frame.pinEdge k l
  | endOfSettling => exact Laws.Frame.endOfSettling
  | endOfSample x => exact Laws.Frame.endOfSample x
  | completion x => exact Laws.Frame.completion x
  | calibrationEnd f => exact Laws.Frame.calibrationEnd f
  | lockReport => exact Laws.Frame.lockReport
  | qualification n => exact Laws.Frame.qualification n
  | acquisitionDeadlineExpiry => exact Laws.Frame.acquisitionDeadlineExpiry
  | proposalExpiry => exact Laws.Frame.proposalExpiry
  | frameStart p => exact Laws.Frame.frameStart p

/-- Check 1 of R171. -/
theorem decodeFrame_of_clocks_or_length (p : Port) {bytes : List Byte} {extra : Nat} (h : extra ≠ 0 ∨ 64 < bytes.length) :
    decodeFrame p ⟨bytes, extra⟩ = .error .length (bytes.getD 1 0) (bytes.getD 0 0) := by
  rw [decodeFrame]
  simp only [if_pos h]
  rcases bytes with _ | ⟨a, _ | ⟨b, rest⟩⟩ <;> rfl

/-- Check 2 of R171. -/
theorem decodeFrame_of_incomplete (p : Port) {bytes : List Byte} (h : bytes.length < 2) :
    decodeFrame p ⟨bytes, 0⟩ = .error .length 0 (bytes.getD 0 0) := by
  rcases bytes with _ | ⟨a, _ | ⟨b, rest⟩⟩
  · rfl
  · rfl
  · simp at h

section
variable {p : Port} {code tag : Byte} {rest : List Byte} (hl : (code :: tag :: rest).length ≤ 64)
include hl

/-- The checks after the second. -/
theorem decodeFrame_eq : decodeFrame p ⟨code :: tag :: rest, 0⟩ =
    match frameArgs code rest with
    | .error cause => .error cause tag code
    | .ok n =>
      if rest.length < n + 1 then .error .length tag code
      else if (rest.drop (n + 1)).any (· ≠ 0xFF) then .error .length tag code
      else if rest.getD n 0 ≠ crc8 (code :: tag :: rest.take n) then .error .crc tag code
      else
        match commandOf p code tag (rest.take n) with
        | some i => .taken i
        | none => .error .unknown tag code := by
  have hn : ¬(0 ≠ 0 ∨ 64 < (code :: tag :: rest).length) := by
    rintro (h | h)
    · exact h rfl
    · omega
  rw [decodeFrame]
  simp only [if_neg hn] <;> rfl

/-- Checks 3 and 4 of R171. -/
theorem decodeFrame_of_code {cause : FrameCause} (h : frameArgs code rest = .error cause) :
    decodeFrame p ⟨code :: tag :: rest, 0⟩ = .error cause tag code := by
  rw [decodeFrame_eq hl, h]

variable {n : Nat} (hn : frameArgs code rest = .ok n)
include hn

/-- Check 5 of R171, of too few bytes. -/
theorem decodeFrame_of_short (h : rest.length < n + 1) :
    decodeFrame p ⟨code :: tag :: rest, 0⟩ = .error .length tag code := by
  rw [decodeFrame_eq hl, hn]
  exact if_pos h

/-- Check 6 of R171. -/
theorem decodeFrame_of_not_filler (h : n + 1 ≤ rest.length) (hf : ∃ b ∈ rest.drop (n + 1), b ≠ 0xFF) :
    decodeFrame p ⟨code :: tag :: rest, 0⟩ = .error .length tag code := by
  have ha : (rest.drop (n + 1)).any (· ≠ 0xFF) = true := by
    obtain ⟨b, hb, hne⟩ := hf
    exact List.any_eq_true.2 ⟨b, hb, decide_eq_true hne⟩
  rw [decodeFrame_eq hl, hn]
  simp only [if_neg (Nat.not_lt.2 h), if_pos ha]

omit hl hn in
theorem not_any_of_filler {l : List Byte} (h : ∀ b ∈ l, b = 0xFF) : ¬l.any (· ≠ 0xFF) = true := by
  rw [List.any_eq_true]
  rintro ⟨b, hb, hne⟩
  exact of_decide_eq_true hne (h b hb)

/-- Check 7 of R171. -/
theorem decodeFrame_of_crc (h : n + 1 ≤ rest.length) (hf : ∀ b ∈ rest.drop (n + 1), b = 0xFF)
    (hc : rest.getD n 0 ≠ crc8 (code :: tag :: rest.take n)) :
    decodeFrame p ⟨code :: tag :: rest, 0⟩ = .error .crc tag code := by
  rw [decodeFrame_eq hl, hn]
  simp only [if_neg (Nat.not_lt.2 h), if_neg (not_any_of_filler hf), if_pos hc]

/-- A frame that passes the checks. -/
theorem decodeFrame_of_taken (h : n + 1 ≤ rest.length) (hf : ∀ b ∈ rest.drop (n + 1), b = 0xFF)
    (hc : rest.getD n 0 = crc8 (code :: tag :: rest.take n)) {i : Instr}
    (hi : commandOf p code tag (rest.take n) = some i) :
    decodeFrame p ⟨code :: tag :: rest, 0⟩ = .taken i := by
  rw [decodeFrame_eq hl, hn]
  simp only [if_neg (Nat.not_lt.2 h), if_neg (not_any_of_filler hf), if_neg (not_not.2 hc), hi]

end

/-- A frame that is taken has passed every check. -/
theorem decodeFrame_taken {p : Port} {f : RawFrame} {i : Instr} (h : decodeFrame p f = .taken i) :
    ∃ code tag rest n, f = ⟨code :: tag :: rest, 0⟩ ∧ f.bytes.length ≤ 64 ∧ frameArgs code rest = .ok n ∧
      n + 1 ≤ rest.length ∧ (∀ b ∈ rest.drop (n + 1), b = 0xFF) ∧
      rest.getD n 0 = crc8 (code :: tag :: rest.take n) ∧ commandOf p code tag (rest.take n) = some i := by
  obtain ⟨bytes, extra⟩ := f
  by_cases h1 : extra ≠ 0 ∨ 64 < bytes.length
  · rw [decodeFrame_of_clocks_or_length p h1] at h
    cases h
  · obtain ⟨hx, hl⟩ := not_or.1 h1
    obtain rfl : extra = 0 := not_not.1 hx
    rcases bytes with _ | ⟨code, _ | ⟨tag, rest⟩⟩
    · cases h
    · cases h
    · have hl' : (code :: tag :: rest).length ≤ 64 := Nat.not_lt.1 hl
      rcases hn : frameArgs code rest with cause | n
      · rw [decodeFrame_of_code hl' hn] at h
        cases h
      · refine ⟨code, tag, rest, n, rfl, hl', hn, ?_⟩
        rw [decodeFrame_eq hl', hn] at h
        simp only at h
        split at h
        · cases h
        · rename_i hs
          split at h
          · cases h
          · rename_i hf
            split at h
            · cases h
            · rename_i hc
              split at h
              · rename_i j hj
                cases h
                refine ⟨Nat.not_lt.1 hs, fun b hb => ?_, not_not.1 hc, hj⟩
                by_contra hne
                exact hf (List.any_eq_true.2 ⟨b, hb, decide_eq_true hne⟩)
              · cases h

/-- The bytes after the arguments have no say in their number. -/
theorem frameArgs_append {code : Byte} {args : List Byte} {n : Nat} (h : frameArgs code args = .ok n) (more : List Byte) :
    frameArgs code (args ++ more) = .ok n := by
  unfold frameArgs at h ⊢
  split at h
  · rename_i hc
    rw [if_pos hc]
    cases args with
    | nil => cases h
    | cons x xs => exact h
  · rename_i hc
    rw [if_neg hc]
    exact h

/-- Settles O8. -/
theorem frameRoundTrip : Obligations.FrameRoundTrip := by
  intro i p code tag args filler hp hl
  obtain ⟨hn, hc⟩ := frame_statement i p code tag args hp
  refine ⟨⟨code :: tag :: (args ++ crc8 (code :: tag :: args) :: List.replicate filler 0xFF), 0⟩, ?_, ?_⟩
  · rw [encodeFrame, hp]
  · refine decodeFrame_of_taken (n := args.length) ?_ (frameArgs_append hn _) ?_ ?_ ?_ ?_
    · simp only [List.length_cons, List.length_append, List.length_replicate]
      omega
    · simp
    · intro b hb
      have hd : (args ++ crc8 (code :: tag :: args) :: List.replicate filler 0xFF).drop (args.length + 1) =
          List.replicate filler 0xFF := by simp [List.drop_append]
      rw [hd] at hb
      exact List.eq_of_mem_replicate hb
    · simp
    · simpa using hc

theorem portOf_of_frameParts {i : Instr} {p : Port} {code tag : Byte} {args : List Byte}
    (h : frameParts i = some (p, code, tag, args)) : portOf i = some p := by
  have hm : portOf i = (frameParts i).map (·.1) := by
    cases i with
    | frameError => cases h
    | sessionExpiry => cases h
    | frameStart => cases h
    | _ => rfl
  rw [hm, h]
  rfl

/-- Settles O9. -/
theorem takenFrameSpellsItsCommand : Obligations.TakenFrameSpellsItsCommand := by
  intro p f i h
  obtain ⟨code, tag, rest, n, rfl, hl, -, hlen, hf, hcrc, hi⟩ := decodeFrame_taken h
  have hp := frameParts_of_commandOf hi
  refine ⟨portOf_of_frameParts hp, hl, rest.length - (n + 1), ?_⟩
  have hdrop : rest.drop (n + 1) = List.replicate (rest.length - (n + 1)) 0xFF :=
    List.eq_replicate_iff.2 ⟨List.length_drop, hf⟩
  have hget : rest[n] = crc8 (code :: tag :: rest.take n) := by
    rw [← hcrc, List.getD_eq_getElem _ _ (by omega)]
  have hrest : rest = rest.take n ++ crc8 (code :: tag :: rest.take n) :: List.replicate (rest.length - (n + 1)) 0xFF := by
    rw [← hdrop, ← hget, ← List.drop_eq_getElem_cons, List.take_append_drop]
  rw [encodeFrame, hp]
  simp only
  rw [← hrest]

/-- Settles O7, by evaluation of the ten frames. -/
theorem framesDecode : Obligations.FramesDecode := by
  unfold Obligations.FramesDecode
  decide +kernel

/-! ### Frame errors -/

theorem exec_frameError (p : Port) (f : RawFrame) (s : State) :
    exec (.frameError p f) s = .next (if s.judges p then s.judgeError p f else s.dropFrame p) := rfl

/-- The codes of the link layout table other than PROPOSE's. -/
theorem argCount_eq_none_or (code : Byte) : argCount code = none ∨
    code ∈ ([0x00, 0x01, 0x02, 0x03, 0x04, 0x05, 0x10, 0x11, 0x12, 0x13, 0x18, 0x19, 0x20, 0x21, 0x28, 0x29, 0x2A, 0x2B,
      0x30, 0x38, 0x39, 0x3A, 0x3B, 0x3C] : List Byte) := by
  unfold argCount
  split
  case h_24 => exact .inl rfl
  all_goals
    rename_i h
    rw [byte_of_toNat h]
    exact .inr (by decide)

theorem frameArgs_of_unknown {code : Byte} (h : code ∉ ([0x00, 0x01, 0x02, 0x03, 0x04, 0x05, 0x10, 0x11, 0x12, 0x13, 0x18,
    0x19, 0x20, 0x21, 0x28, 0x29, 0x2A, 0x2B, 0x30, 0x38, 0x39, 0x3A, 0x3B, 0x3C] : List Byte)) (rest : List Byte) :
    frameArgs code rest = .error .unknown := by
  have hne : code ≠ 0x38 := fun hc => h (by rw [hc]; decide)
  unfold frameArgs
  rw [if_neg hne, (argCount_eq_none_or code).resolve_right h]

theorem frameArgs_propose_of_unknown {subject : Byte} (h : subject = 0 ∨ 9 < subject.toNat) (more : List Byte) :
    frameArgs 0x38 (subject :: more) = .error .unknown := by
  have hs : ∀ x : Byte, (x = 0 ∨ 9 < x.toNat) → proposeArgCount x = none := by decide
  simp [frameArgs, hs subject h]

/-- Settles O10: each outcome is the one that the first failed check gives. -/
theorem frameErrors : Obligations.FrameErrors := by
  refine ⟨fun s p f hj => ⟨fun cause tag echo h => ?error, fun i h => ?taken⟩, fun p bytes extra =>
    ⟨decodeFrame_of_clocks_or_length p, fun hx hl => ?incomplete, fun code tag rest hx hl hb => ?checks⟩⟩
  case error =>
    rw [exec_frameError, if_pos (judges_of_judged hj), State.judgeError, h]
    cases cause <;> simp [place_eq, Response.frameErrorRecord, frameCauseByte, endFrame_eq]
  case taken => rw [exec_frameError, if_pos (judges_of_judged hj), State.judgeError, h]
  case incomplete =>
    subst hx
    exact decodeFrame_of_incomplete p hl
  case checks =>
    subst hx
    subst hb
    refine ⟨fun hc => decodeFrame_of_code hl (frameArgs_of_unknown hc rest), fun hc hr => ?_, fun hc x more hr hx => ?_,
      fun n hn => ⟨fun h => ?_, fun h hf => ?_, fun h hf hcrc => ?_⟩⟩
    · subst hc
      subst hr
      exact decodeFrame_of_code hl rfl
    · subst hc
      subst hr
      exact decodeFrame_of_code hl (frameArgs_propose_of_unknown hx more)
    · exact decodeFrame_of_short hl hn (by simp at h; omega)
    · exact decodeFrame_of_not_filler hl hn (by simp at h; omega) hf
    · exact decodeFrame_of_crc hl hn (by simp at h; omega) hf hcrc

/-! ### Frame starts and SDOx -/

theorem exec_frameStart (p : Port) (s : State) : exec (.frameStart p) s = .next (frameStartEvent p s) := rfl

/-- Settles O11. -/
theorem frameStartCommand : Obligations.FrameStartCommand := by
  intro s p hi
  rw [exec_frameStart, frameStartEvent, hi]
  rfl

theorem bytes_getD_of_lt (r : Response) {n : Nat} (h : n < r.data.length + 4) : r.bytes.getD n 0xFF =
    ([r.tag, r.echo, statusByte r.status, BitVec.ofNat 8 r.data.length] ++ r.data).getD n 0xFF := by
  rw [Response.bytes]
  exact List.getD_append _ _ _ _ (by simp; omega)

/-- Settles O12. -/
theorem recordOnTheWire : Obligations.RecordOnTheWire := by
  refine ⟨fun st => ?_, fun s p hf n => ?_, fun s p r hf _ => ?_⟩
  · cases st <;> rfl
  · rcases hf with h | h <;> simp [State.sdo, h]
  · have hs : ∀ n, s.sdo p n = some (r.bytes.getD n 0xFF) := fun n => by rw [State.sdo, hf]
    refine ⟨fun n hn => ?_, ?_, fun n hn => ?_⟩
    · have hlt : n < ([r.tag, r.echo, statusByte r.status, BitVec.ofNat 8 r.data.length] ++ r.data).length := by
        simp
        omega
      rw [hs, bytes_getD_of_lt r hn, List.getD_eq_getElem _ _ hlt, List.getElem?_eq_getElem hlt]
    · rw [hs, Response.bytes, List.getD_append_right _ _ _ _ (by simp)]
      simp [byteOf]
    · rw [hs, List.getD_eq_default]
      simp [Response.bytes]
      omega

/-! ### Commands at a frame's end -/

/-- What each command that a frame carries does at the frame's end: FETCH restarts the session timer, ATTACH and READ_STATUS
are answered in any session state, and the rest need an attached port. -/
theorem exec_of_frameParts {c : Instr} {p : Port} {code tag : Byte} {args : List Byte}
    (h : frameParts c = some (p, code, tag, args)) :
    (code = 0x00 ∧ ∀ s, exec c s = .next (s.fetch p)) ∨
    ((code = 0x01 ∨ code = 0x04) ∧ ∃ block, ∀ s, exec c s = .next (s.answer p tag code block)) ∨
    ∃ block, ∀ s, exec c s = .next (s.answerAttached p tag code block) := by
  cases c with
  | fetch => cases h; exact .inl ⟨rfl, fun _ => rfl⟩
  | attach => cases h; exact .inr (.inl ⟨.inl rfl, _, fun _ => rfl⟩)
  | readStatus => cases h; exact .inr (.inl ⟨.inr rfl, _, fun _ => rfl⟩)
  | _ => cases h <;> exact .inr (.inr ⟨_, fun _ => rfl⟩)

/-- A frame that is not judged only ends. -/
theorem exec_of_not_judged {c : Instr} {p : Port} {code tag : Byte} {args : List Byte}
    (h : frameParts c = some (p, code, tag, args)) {s : State} (hj : ¬Judged s p) : exec c s = .next (s.dropFrame p) := by
  rcases exec_of_frameParts h with ⟨-, he⟩ | ⟨-, block, he⟩ | ⟨block, he⟩
  · rw [he, State.fetch, judges_of_not_judged hj]
    rfl
  · rw [he, answer_not_judged hj]
  · rw [he, State.answerAttached, answer_not_judged hj]

/-- Settles O13. -/
theorem unjudgedAndDetachedFrames : Obligations.UnjudgedAndDetachedFrames := by
  refine ⟨fun c s p hp hc hj => ?unjudged, fun c s p code tag args hc h0 h1 h4 hj hd => ?detached⟩
  case unjudged =>
    rcases hc with hc | ⟨f, rfl⟩
    · obtain ⟨⟨q, code, tag, args⟩, hq⟩ := Option.isSome_iff_exists.1 hc
      obtain rfl : q = p := Option.some.inj ((portOf_of_frameParts hq).symm.trans hp)
      exact exec_of_not_judged hq hj
    · cases hp
      rw [exec_frameError, judges_of_not_judged hj]
      rfl
  case detached =>
    rcases exec_of_frameParts hc with ⟨hcode, -⟩ | ⟨hcode, -⟩ | ⟨block, he⟩
    · exact absurd hcode h0
    · exact (hcode.elim h1 h4).elim
    · rw [he, answerAttached_detached hj hd]

theorem exec_fetch (p : Port) (tag : Byte) (s : State) : exec (.fetch p tag) s = .next (s.fetch p) := rfl

/-- Settles O15. -/
theorem fetchCommand : Obligations.FetchCommand := by
  intro s p tag hj
  rw [exec_fetch, State.fetch, if_pos (judges_of_judged hj), restart_eq]
  simp [endFrame_eq, PortState.restarted]

end Sys2Proof.Machine
end

section
/-! Sessions and event queues: ATTACH, DETACH, SESSION_EXPIRY, the routing of notices, SUBSCRIBE and TAKE_EVENTS, and what a
session end and a close do to the open proposal. -/

namespace Sys2Proof.Machine

/-! ### ATTACH -/

/-- A judged command that changes nothing beyond its answer. -/
theorem answer_unchanged {s : State} {p : Port} (h : Judged s p) {tag code : Byte} {block : State → State × Answer}
    {st : Status} {data : List Byte} (hb : block (s.endFrame p) = (s.endFrame p, ⟨st, data⟩)) :
    s.answer p tag code block = s.answered p ⟨tag, code, st, data⟩ := by
  rw [answer_judged h, hb]
  simp [State.answered, PortState.answered, PortState.restarted, endFrame_eq]

theorem exec_attach (p : Port) (tag timeout subs : Byte) (s : State) :
    exec (.attach p tag timeout subs) s = .next (s.answer p tag 0x01 (attachBlock p timeout subs)) := rfl

section
variable {s : State} {p : Port} {timeout subs : Byte}

theorem attachBlock_of_attached (h : (s.port p).attached = true) :
    attachBlock p timeout subs s = (s, ⟨.already, [(s.port p).number]⟩) := by
  simp [attachBlock, h]

theorem attachBlock_of_bad_set (h : (s.port p).attached = false) (hs : 32 ≤ subs.toNat) :
    attachBlock p timeout subs s = (s, ⟨.invalid, []⟩) := by
  simp [attachBlock, h, readSubs_of_le hs, Answer.bare]

theorem attachBlock_of_detached (h : (s.port p).attached = false) (hs : subs.toNat < 32) :
    attachBlock p timeout subs s =
      ((s.openSession p timeout ⟨subs.getLsbD 0, subs.getLsbD 1, subs.getLsbD 2, subs.getLsbD 3, subs.getLsbD 4⟩).tellPeers p
        .attached ((s.port p).number + 1), ⟨.ok, [(s.port p).number + 1]⟩) := by
  simp [attachBlock, h, readSubs_of_lt hs]

end

/-- The deadline of a session that opens is the one that its first taken frame would set. -/
theorem restarted_of_opened {x : PortState} (now : Time)
    (hd : x.deadline = if x.timeout = 0 then none else some (now + BitVec.ofNat 32 (x.timeout.toNat * 10000))) :
    x.restarted now = x.deadline := by
  unfold PortState.restarted
  split
  · rename_i h
    rw [hd, if_neg h.2]
  · rfl

/-- Settles O16: the deadline the session opens with is the one that the frame would set. -/
theorem attachCommand : Obligations.AttachCommand := by
  intro s p tag timeout subs hj
  refine ⟨fun hd hs => ?opens, fun hd hs => ?invalid, fun ha => ?already⟩
  case opens =>
    rw [exec_attach, answer_judged hj, attachBlock_of_detached (by simpa using hd) hs]
    refine ⟨_, rfl, rfl, ?_, fun q hq => ?_⟩
    · rw [State.port_setPort, if_pos rfl, restarted_of_opened]
      · simp [State.port_tellPeers, State.openSession, State.after]
      · simp only [State.port_tellPeers, State.openSession, State.after, State.port_setPort, if_true]
        rfl
    · simp [State.port_setPort, hq, State.port_tellPeers, State.openSession, port_endFrame]
  case invalid => rw [exec_attach, answer_unchanged hj (attachBlock_of_bad_set (by simpa using hd) hs)]
  case already =>
    rw [exec_attach, answer_unchanged hj (attachBlock_of_attached (by simpa using ha))]
    simp

/-! ### Notices -/

theorem toNat_satInc {w : Nat} (x : BitVec w) : (satInc x).toNat = min (2 ^ w - 1) (x.toNat + 1) := by
  have hx := x.isLt
  unfold satInc
  split
  · rename_i h
    have h1 : 1 % 2 ^ w = 1 := Nat.mod_eq_of_lt (by omega)
    have h2 : BitVec.toNat (1 : BitVec w) = 1 := h1
    rw [BitVec.toNat_add, h2, Nat.mod_eq_of_lt h]
    omega
  · omega

theorem noticeSet_iff (s : State) (st : ItemState) (kind : Subscriptions → Bool) (q : Port) :
    (s.noticeSet st kind).get q = true ↔ (st = .ownedBy q ∨ st = .shared) ∧ kind (s.port q).subs = true := by
  rw [State.get_noticeSet]
  rcases st with _ | _ | (p | _)
  · simp
  · simp
  · simp [eq_comm (a := q)]
  · simp

/-- The queue holds no OVERFLOW record. -/
theorem not_any_overflow {q : List EventRecord} (h : ∀ r ∈ q, r.isOverflow = false) :
    ¬q.any EventRecord.isOverflow = true := by
  rw [List.any_eq_true]
  rintro ⟨r, hr, ho⟩
  exact absurd ((h r hr).symm.trans ho) (by simp)

theorem arrive_of_overflow {q : List EventRecord} (h : ∃ r ∈ q, r.isOverflow = true) (n : Notice) (now : Time) :
    arrive q n now = q.map fun r => if r.isOverflow = true then { r with count := satInc r.count } else r :=
  if_pos (List.any_eq_true.2 h)

theorem arrive_of_room {q : List EventRecord} (h : ∀ r ∈ q, r.isOverflow = false) (hl : q.length < 15) (n : Notice)
    (now : Time) : arrive q n now = q ++ [⟨n, 1, now⟩] := by
  rw [arrive, if_neg (not_any_overflow h), if_neg (Nat.not_le.2 hl)]

theorem arrive_of_full {q : List EventRecord} (h : ∀ r ∈ q, r.isOverflow = false) (hl : 15 ≤ q.length) (n : Notice)
    (now : Time) : arrive q n now = q ++ [⟨.overflow n.kind, 1, now⟩] := by
  rw [arrive, if_neg (not_any_overflow h), if_pos hl]

/-- A COMPLETION notice of an entry with an untaken record. -/
theorem enqueue_completion_of_untaken {q : List EventRecord} {e : EntryId} (h : ∃ r ∈ q, r.isCompletionOf e = true)
    (i : SlotId) (sequence v : BitVec 16) (now : Time) : enqueue q (.completion e i sequence v) now =
      q.map fun r => if r.isCompletionOf e = true then ⟨.completion e i sequence v, satInc r.count, now⟩ else r :=
  if_pos (List.any_eq_true.2 h)

/-- Any other notice arrives. -/
theorem enqueue_eq_arrive {q : List EventRecord} {n : Notice}
    (h : ∀ e i sequence v, n = .completion e i sequence v → ∀ r ∈ q, r.isCompletionOf e = false) (now : Time) :
    enqueue q n now = arrive q n now := by
  cases n with
  | completion e i sequence v =>
    have hn : ¬q.any (EventRecord.isCompletionOf e) = true := by
      rw [List.any_eq_true]
      rintro ⟨r, hr, hc⟩
      exact absurd ((h e i sequence v rfl r hr).symm.trans hc) (by simp)
    exact if_neg hn
  | _ => rfl

/-- Settles O17: notice sets, the saturating count, and the queue's four ways to take a notice. -/
theorem noticesReachTheQueues : Obligations.NoticesReachTheQueues := by
  refine ⟨noticeSet_iff, fun w x => toNat_satInc x, PortState.receive_eq, fun s n who => ⟨rfl, fun q => ?raised⟩,
    fun q n now => ⟨fun e i sequence v hn h => ?folded, fun h => ⟨fun ho => ?counted, fun ho hl => ?appended,
      fun ho hl => ?lost⟩⟩⟩
  case raised => rw [State.port_raise, PortState.receive_eq]
  case folded =>
    subst hn
    exact enqueue_completion_of_untaken h i sequence v now
  case counted => rw [enqueue_eq_arrive h, arrive_of_overflow ho]
  case appended => rw [enqueue_eq_arrive h, arrive_of_room ho hl]
  case lost => rw [enqueue_eq_arrive h, arrive_of_full ho hl]

/-! ### Session ends -/

theorem exec_detach (p : Port) (tag : Byte) (s : State) :
    exec (.detach p tag) s = .next (s.answerAttached p tag 0x02 (detachBlock p)) := rfl

theorem exec_sessionExpiry (p : Port) (s : State) :
    exec (.sessionExpiry p) s = .next (s.unlessHeld (sessionExpiryEvent p)) := rfl

/-- The state in which port `p` has left and the Proposal Slot is not yet told. -/
def State.left (s : State) (p : Port) (d : PeerDetail) : State :=
  ((s.setPort p (s.port p).leave).freeItems p).tellPeers p d (s.port p).number

theorem endSession_eq (s : State) (p : Port) (d : PeerDetail) : s.endSession p d = (s.left p d).partyLeaves p := rfl

theorem linkLaw_endFrame {s : State} (h : LinkLaw s) (p : Port) : LinkLaw (s.endFrame p) := h.cuts (.of_rest rfl rfl rfl)

/-- The end of the frame is a change of the leaving port alone. -/
theorem SessionEnded.of_endFrame {s u : State} {p : Port} {d : PeerDetail} {x : PortState}
    (h : SessionEnded (s.endFrame p) u p d x) : SessionEnded s u p d x where
  port := h.port
  others q hq := by
    have := h.others q hq
    rwa [port_endFrame, if_neg hq, port_endFrame, if_pos rfl] at this
  entries := h.entries
  monitors := h.monitors
  queue := h.queue
  rest := h.rest

theorem PortState.restarted_of_detached {x : PortState} (h : x.attached = false) (now : Time) :
    x.restarted now = x.deadline := by
  simp [PortState.restarted, h]

theorem detachBlock_eq (p : Port) (s : State) :
    detachBlock p s = ((s.left p .detached).partyLeaves p, ⟨.ok, []⟩) := rfl

/-- Settles O18: the session of the port at the frame's end is ended, which changes nothing else of it, and its
deadline is gone. -/
theorem detachCommand : Obligations.DetachCommand := by
  intro s p tag hs hl
  have hend : SessionEnded (s.endFrame p) ((s.endFrame p).left p .detached) p .detached _ :=
    sessionEnded_of_linkLaw (linkLaw_endFrame hl p) p .detached
  rw [port_endFrame_self] at hend
  refine ⟨_, hend.of_endFrame, ?_⟩
  have hdet : (((s.endFrame p).left p .detached).partyLeaves p |>.port p).attached = false := by
    rw [(partyLeaves_sameButEvents _ p p).attached, hend.port]
    rfl
  rw [exec_detach, answerAttached_served hs, answer_judged hs.1, detachBlock_eq, place_eq,
    PortState.restarted_of_detached hdet]

/-- Settles O19: the state told to the peers is the one the law of links describes, and the rest is the definition. -/
theorem sessionExpiryCommand : Obligations.SessionExpiryCommand := by
  intro s p hr ha hd hl
  refine ⟨s.left p .expired, sessionEnded_of_linkLaw hl p .expired, ?_⟩
  rw [exec_sessionExpiry, unlessHeld_released hr, sessionExpiryEvent, if_pos ⟨ha, hd⟩]
  rfl

/-! ### A close, and a party that leaves -/

theorem outstanding_ne_zero_of_waiting {pr : Proposal} {q : Port} (hr : pr.required.get q = true)
    (ha : pr.accepted.get q = false) : pr.outstanding ≠ 0 := fun h =>
  absurd (((outstanding_eq_zero_iff pr).1 h q hr).symm.trans ha) (by simp)

/-- The Proposal Slot is empty and the parties are told, before the subject is settled. -/
def State.closed (s : State) (pr : Proposal) (o : ProposalOutcome) : State :=
  ({ s with proposal := none } : State).raise (.proposal pr.id o pr.author) pr.parties

theorem close_eq (s : State) (pr : Proposal) (o : ProposalOutcome) : s.close pr o = (s.closed pr o).settle o pr.subject :=
  rfl

theorem port_closed (s : State) (pr : Proposal) (o : ProposalOutcome) (q : Port) : (s.closed pr o).port q =
    (s.port q).receive (decide (q = pr.author) || pr.required.get q) (.proposal pr.id o pr.author) s.timebase := by
  have hp : pr.parties.get q = (decide (q = pr.author) || pr.required.get q) := by
    rw [Proposal.parties, PerPort.get_set]
    split <;> simp [*]
  rw [State.closed, State.port_raise, hp]
  rfl

/-- Settles O20: the cases of `partyLeaves`, and the close as its record and its settling. -/
theorem proposalCloses : Obligations.ProposalCloses := by
  refine ⟨fun s p => ⟨fun hn => ?none, fun pr hp => ⟨fun ha => ?author, fun ha hr => ?other, fun ha hr hall => ?last,
    fun ha hr hw => ?voter⟩⟩, fun s pr o => ⟨s.closed pr o, rfl, port_closed s pr o, fun ho => ?adopted, fun ho =>
      ⟨fun e c hx he => ?entry, fun m c hx hm => ?monitor, fun he hm => ?neither⟩⟩⟩
  case none => rw [State.partyLeaves, hn]
  case author => simp [State.partyLeaves, hp, ha]
  case other => simp [State.partyLeaves, hp, ha, hr]
  case last =>
    have h0 : (pr.without p).outstanding = 0 := (outstanding_eq_zero_iff _).2 hall
    simp only [State.partyLeaves, hp, if_neg ha, hr, if_true, h0]
    rfl
  case voter =>
    obtain ⟨q, hq, hqa⟩ := hw
    have h0 : (pr.without p).outstanding ≠ 0 := outstanding_ne_zero_of_waiting hq hqa
    simp only [State.partyLeaves, hp, if_neg ha, hr, if_true, if_neg h0]
    rfl
  case adopted =>
    subst ho
    rfl
  all_goals
    have hu : s.close pr o = (s.closed pr o).unreserve pr.subject := by
      rcases ho with rfl | rfl | rfl <;> rfl
    rw [hu]
  case entry =>
    rw [hx, unreserve_entrySet]
    exact if_pos he
  case monitor =>
    rw [hx, unreserve_monitorSet]
    exact if_pos hm
  case neither =>
    rcases hx : pr.subject with ⟨e, c⟩ | _ | ⟨m, c⟩ | _ | _ | _ | _ | _ | _
    case entrySet =>
      rw [unreserve_entrySet]
      exact if_neg (he e c hx)
    case monitorSet =>
      rw [unreserve_monitorSet]
      exact if_neg (hm m c hx)
    all_goals rfl

/-! ### SUBSCRIBE and TAKE_EVENTS -/

theorem exec_subscribe (p : Port) (tag subs : Byte) (s : State) :
    exec (.subscribe p tag subs) s = .next (s.answerAttached p tag 0x03 (subscribeBlock p subs)) := rfl

theorem exec_takeEvents (p : Port) (tag : Byte) (s : State) :
    exec (.takeEvents p tag) s = .next (s.answerAttached p tag 0x30 (takeEventsBlock p)) := rfl

theorem attention_iff (s : State) (p : Port) :
    s.attention p = true ↔ (s.port p).attached = true ∧ (s.port p).events ≠ [] := by
  simp [State.attention]

/-- Settles O21: a case for each kind of notice, and the two blocks as updates of their port alone. -/
theorem subscribeAndTakeEventsCommands : Obligations.SubscribeAndTakeEventsCommands := by
  refine ⟨fun n count stamp => ?bytes, fun s p tag subs hs => ⟨fun hl => ?set, fun hl => ?invalid⟩,
    fun s p tag hs => ⟨_, ?take, rfl, ?line⟩, attention_iff⟩
  case bytes =>
    cases n with
    | completion => rfl
    | monitor m d v =>
      rcases d with z | _
      · cases z <;> rfl
      · rfl
    | dropped => rfl
    | discarded e c => cases c <;> rfl
    | proposal id o author => cases o <;> cases author <;> rfl
    | clock r o =>
      obtain ⟨m, d⟩ := r
      rcases o with _ | c
      · cases m <;> cases d <;> rfl
      · cases c <;> cases m <;> cases d <;> rfl
    | peer p d number => cases d <;> cases p <;> rfl
    | overflow k => cases k <;> rfl
  case set =>
    have hb : subscribeBlock p subs (s.endFrame p) = ((s.endFrame p).setPort p { (s.endFrame p).port p with
        subs := ⟨subs.getLsbD 0, subs.getLsbD 1, subs.getLsbD 2, subs.getLsbD 3, subs.getLsbD 4⟩ }, ⟨.ok, [subs]⟩) := by
      simp only [subscribeBlock, readSubs_of_lt hl, subsByte_readSubs subs hl]
    rw [exec_subscribe, answerAttached_setPort (f := fun x => { x with
      subs := ⟨subs.getLsbD 0, subs.getLsbD 1, subs.getLsbD 2, subs.getLsbD 3, subs.getLsbD 4⟩ }) hs hb]
    rfl
  case invalid =>
    have hb : subscribeBlock p subs (s.endFrame p) = (s.endFrame p, ⟨.invalid, []⟩) := by
      simp [subscribeBlock, readSubs_of_le hl, Answer.bare]
    rw [exec_subscribe, answerAttached_unchanged hs hb]
  case take =>
    have hb : takeEventsBlock p (s.endFrame p) = ((s.endFrame p).setPort p { (s.endFrame p).port p with
        events := ((s.endFrame p).port p).events.drop 4 }, ⟨.ok, takenData (s.port p).events⟩) := by
      simp [takeEventsBlock]
    rw [exec_takeEvents, answerAttached_setPort (f := fun x => { x with events := x.events.drop 4 }) hs hb]
    simp [takenData, byteOf, PortState.answered, PortState.restarted]
  case line =>
    rw [attention_iff, State.port_setPort, if_pos rfl]
    have ha : (s.port p).attached = true := hs.2
    simp [PortState.answered, ha]

end Sys2Proof.Machine
end

section
/-! Reads: the bytes of the records, and READ_STATUS, READ_COMMON, READ_PROPOSAL, READ_ENTRY, READ_MONITOR and RESTATE. -/

namespace Sys2Proof.Machine

/-! ### Bytes -/

theorem extractLsb'_eq_ofNat {w : Nat} (x : BitVec w) (k : Nat) :
    x.extractLsb' k 8 = BitVec.ofNat 8 (x.toNat / 2 ^ k) := by
  apply BitVec.eq_of_toNat_eq
  rw [BitVec.extractLsb'_toNat, BitVec.toNat_ofNat, Nat.shiftRight_eq_div_pow]

theorem be16_eq (x : BitVec 16) : be16 x = [BitVec.ofNat 8 (x.toNat / 256), BitVec.ofNat 8 x.toNat] := by
  simp only [be16, extractLsb'_eq_ofNat]
  norm_num

theorem be32_eq (x : BitVec 32) : be32 x = [BitVec.ofNat 8 (x.toNat / 256 ^ 3), BitVec.ofNat 8 (x.toNat / 256 ^ 2),
    BitVec.ofNat 8 (x.toNat / 256), BitVec.ofNat 8 x.toNat] := by
  simp only [be32, extractLsb'_eq_ofNat]
  norm_num

/-! ### Records -/

theorem entryRecord_eq (x : Entry) : entryRecord x = contentsBytes x.contents ++
    [match x.state with | .free => 0 | .scoped (.own _) => 1 | .scoped .common => 2 | .reserved => 3,
      match x.state with | .scoped (.own p) => portByte p | _ => 0xFF,
      x.revision, x.overruns, x.drops, if x.overrunPending = true then 1 else 0] := by
  obtain ⟨c, st, _, _, _, _⟩ := x
  rcases st with _ | _ | (p | _) <;> rfl

theorem monitorRecord_eq (x : Monitor) : monitorRecord x = monitorContentsBytes x.contents ++
    [match x.state with | .free => 0 | .scoped (.own _) => 1 | .scoped .common => 2 | .reserved => 3,
      match x.state with | .scoped (.own p) => portByte p | _ => 0xFF,
      x.revision,
      match x.zone with | none => 0 | some .below => 1 | some .inside => 2 | some .above => 3,
      match x.candidate with | none => 0xFF | some (.below, _) => 1 | some (.inside, _) => 2 | some (.above, _) => 3,
      match x.candidate with | none => 0 | some (_, n) => BitVec.ofNat 8 n] ++ be16 x.crossings := by
  have hst : ∀ st : ItemState, itemStateByte st =
      match st with | .free => 0 | .scoped (.own _) => 1 | .scoped .common => 2 | .reserved => 3 := by
    rintro (_ | _ | (p | _)) <;> rfl
  have hown : ∀ st : ItemState, ownerByte st = match st with | .scoped (.own p) => portByte p | _ => 0xFF := by
    rintro (_ | _ | (p | _)) <;> rfl
  have hzone : ∀ z : Option Zone, acceptedZoneByte z =
      match z with | none => 0 | some .below => 1 | some .inside => 2 | some .above => 3 := by
    rintro (_ | _ | _ | _) <;> rfl
  have hcand : ∀ c : Option (Zone × Nat), candidateZoneByte c = match c with
      | none => 0xFF | some (.below, _) => 1 | some (.inside, _) => 2 | some (.above, _) => 3 := by
    rintro (_ | ⟨_ | _ | _, n⟩) <;> rfl
  have hcount : ∀ c : Option (Zone × Nat), byteOf (candidateCount c) =
      match c with | none => 0 | some (_, n) => BitVec.ofNat 8 n := by
    rintro (_ | ⟨z, n⟩) <;> rfl
  rw [monitorRecord, hst, hown, hzone, hcand, hcount]

/-- Settles O23: field by field, with the lengths and the round trips proved with the records. -/
theorem recordLayouts : Obligations.RecordLayouts := by
  refine ⟨be16_eq, be32_eq, fun p => ?port, fun x => ?ports, fun x => ?subs, fun c => ?converter, fun m => ?mode,
    fun d => ?divider, fun x => ?phase, fun c => rfl, entryRecord_eq, fun c => rfl, monitorRecord_eq, length_entryRecord,
    length_monitorRecord, length_slotBytes, length_eventBytes, length_commonRecord, length_statusRecord,
    length_proposalRecord, readContents_rawContents, readMonitorContents_rawMonitorContents, rfl⟩
  case port => cases p <;> rfl
  case ports =>
    obtain ⟨a, b, c⟩ := x
    revert a b c
    decide
  case subs =>
    obtain ⟨a, b, c, d, e⟩ := x
    revert a b c d e
    decide
  case converter => cases c <;> rfl
  case mode => cases m <;> rfl
  case divider => cases d <;> rfl
  case phase => cases x <;> rfl

/-! ### The status record and the common record -/

theorem State.waiting_eq (s : State) (p : Port) :
    s.waiting p = (s.queue.filter fun k => k.origin = .port p).length := by
  rw [State.waiting, List.countP_eq_length_filter]
  congr 1

theorem statusRecord_eq (s : State) (p : Port) : statusRecord s p =
    [converterByte s.converter, clockModeByte s.clock.active.mode, dividerByte s.clock.active.divider,
      phaseByte s.clock.phase, BitVec.ofNat 8 s.queue.length,
      if (s.port .a).attached = true then 1 else 0, (s.port .a).number,
      if (s.port .b).attached = true then 1 else 0, (s.port .b).number,
      if (s.port .c).attached = true then 1 else 0, (s.port .c).number,
      if s.proposal = none then 0 else 1, (s.proposal.map (·.id)).getD 0,
      match s.resetCause with | .power => 1 | .pin => 2] ++ be32 s.timebase ++
    [BitVec.ofNat 8 (s.queue.filter fun k => k.origin = .port p).length,
      BitVec.ofNat 8 ((List.finRange 32).filter fun e => (s.entry e).state = .ownedBy p).length,
      BitVec.ofNat 8 ((List.finRange 12).filter fun m => (s.monitor m).state = .ownedBy p).length,
      BitVec.ofNat 8 (s.port p).events.length, (s.port p).abandons] := by
  rw [statusRecord, State.waiting_eq, State.entryCount_eq, State.monitorCount_eq]
  cases s.resetCause <;> cases s.proposal <;> rfl

theorem toNat_edgeModeByte_lt (m : EdgeMode) : (edgeModeByte m).toNat < 4 := by cases m <;> decide

theorem toNat_pinModesByte (pins : Table Pin 4) : (pinModesByte pins).toNat =
    (edgeModeByte (pins.get 0).mode).toNat + 4 * (edgeModeByte (pins.get 1).mode).toNat +
      16 * (edgeModeByte (pins.get 2).mode).toNat + 64 * (edgeModeByte (pins.get 3).mode).toNat := by
  have h0 := toNat_edgeModeByte_lt (pins.get 0).mode
  have h1 := toNat_edgeModeByte_lt (pins.get 1).mode
  have h2 := toNat_edgeModeByte_lt (pins.get 2).mode
  have h3 := toNat_edgeModeByte_lt (pins.get 3).mode
  rw [pinModesByte]
  bv_omega

/-- Bits `2k+1` and `2k` of the edge modes byte are the edge mode of pin `k`. -/
theorem pinModesByte_digit (pins : Table Pin 4) (k : PinId) :
    (pinModesByte pins).toNat / 4 ^ k.val % 4 = (edgeModeByte (pins.get k).mode).toNat := by
  have h0 := toNat_edgeModeByte_lt (pins.get 0).mode
  have h1 := toNat_edgeModeByte_lt (pins.get 1).mode
  have h2 := toNat_edgeModeByte_lt (pins.get 2).mode
  have h3 := toNat_edgeModeByte_lt (pins.get 3).mode
  rw [toNat_pinModesByte]
  fin_cases k <;> simp <;> omega

theorem cells_getElem? {α : Type} {n : Nat} (t : Table α n) (i : Fin n) : t.cells[i.val]? = some (t.get i) := by
  rw [Table.cells_eq, List.getElem?_map, List.getElem?_eq_getElem (by simp)]
  simp

/-- The set of COMMON items of a table, as the common record holds it. -/
theorem getLsbD_commonBits {α : Type} {n w : Nat} (t : Table α n) (state : α → ItemState) (hw : n ≤ w) (i : Fin n) :
    (BitVec.ofNat w (commonBits (t.cells.map state))).getLsbD i.val = decide (state (t.get i) = .shared) := by
  rw [BitVec.getLsbD_ofNat, testBit_commonBits, List.getElem?_map, cells_getElem?, decide_eq_true (by omega)]
  rfl

/-- No bit beyond the items is set. -/
theorem getLsbD_commonBits_of_le {α : Type} {n w : Nat} (t : Table α n) (state : α → ItemState) {i : Nat} (hi : n ≤ i) :
    (BitVec.ofNat w (commonBits (t.cells.map state))).getLsbD i = false := by
  rw [BitVec.getLsbD_ofNat, testBit_commonBits, List.getElem?_eq_none (by simpa [t.size] using hi)]
  simp

theorem timerBytes_eq (t : Timer) : timerBytes t =
    be16 t.period ++ match t.run with | .stopped => [0, 0, 0, 0, 0] | .running next => 1 :: be32 next := by
  obtain ⟨_, _ | _⟩ := t <;> rfl

theorem requestBytes_eq (x : SwitchPhase) : requestBytes x = match x with
    | .none => [0xFF, 0xFF]
    | .draining r => [clockModeByte r.mode, dividerByte r.divider]
    | .acquiring r => [clockModeByte r.mode, dividerByte r.divider] := by
  cases x <;> rfl

theorem proposalRecord_eq (pr : Proposal) (now : Time) : proposalRecord pr now =
    [pr.id, portByte pr.author] ++
    (match pr.subject with
      | .entrySet e c => [0x01, BitVec.ofNat 8 e.val] ++ contentsBytes c
      | .entryRemove e => [0x02, BitVec.ofNat 8 e.val]
      | .monitorSet m c => [0x03, BitVec.ofNat 8 m.val] ++ monitorContentsBytes c
      | .monitorRemove m => [0x04, BitVec.ofNat 8 m.val]
      | .timerSet k period run => [0x05, BitVec.ofNat 8 k.val] ++ be16 period ++ [if run = true then 1 else 0]
      | .pinSet k edge =>
        [0x06, BitVec.ofNat 8 k.val, match edge with | .off => 0 | .rising => 1 | .falling => 2 | .both => 3]
      | .clockSet r => [0x07, clockModeByte r.mode, dividerByte r.divider]
      | .agingSet period => [0x08, period]
      | .windowSet window => [0x09, window]) ++
    be32 pr.deadline ++ be32 now ++ [portSetByte pr.required, portSetByte pr.accepted] := by
  obtain ⟨_, _, x, _, _, _⟩ := pr
  cases x with
  | pinSet k edge => cases edge <;> rfl
  | _ => rfl

/-! ### The commands -/

theorem exec_readStatus (p : Port) (tag : Byte) (s : State) :
    exec (.readStatus p tag) s = .next (s.answer p tag 0x04 (readStatusBlock p)) := rfl

theorem exec_readCommon (p : Port) (tag : Byte) (s : State) :
    exec (.readCommon p tag) s = .next (s.answerAttached p tag 0x3C readCommonBlock) := rfl

theorem exec_readProposal (p : Port) (tag : Byte) (s : State) :
    exec (.readProposal p tag) s = .next (s.answerAttached p tag 0x3B readProposalBlock) := rfl

theorem exec_readEntry (p : Port) (tag e : Byte) (s : State) :
    exec (.readEntry p tag e) s = .next (s.answerAttached p tag 0x12 (readEntryBlock e)) := rfl

theorem exec_readMonitor (p : Port) (tag m : Byte) (s : State) :
    exec (.readMonitor p tag m) s = .next (s.answerAttached p tag 0x2A (readMonitorBlock m)) := rfl

theorem exec_restate (p : Port) (tag : Byte) (s : State) :
    exec (.restate p tag) s = .next (s.answerAttached p tag 0x05 (restateBlock p)) := rfl

theorem readEntryBlock_of_le {e : Byte} (h : 32 ≤ e.toNat) (s : State) : readEntryBlock e s = (s, ⟨.invalid, []⟩) := by
  simp [readEntryBlock, indexOf_eq_none h, Answer.bare]

theorem readEntryBlock_ofNat (e : EntryId) (s : State) :
    readEntryBlock (BitVec.ofNat 8 e.val) s = (s, ⟨.ok, entryRecord (s.entry e)⟩) := by
  simp [readEntryBlock]

theorem readMonitorBlock_of_le {m : Byte} (h : 12 ≤ m.toNat) (s : State) :
    readMonitorBlock m s = (s, ⟨.invalid, []⟩) := by
  simp [readMonitorBlock, indexOf_eq_none h, Answer.bare]

theorem readMonitorBlock_ofNat (m : MonId) (s : State) :
    readMonitorBlock (BitVec.ofNat 8 m.val) s = (s, ⟨.ok, monitorRecord (s.monitor m)⟩) := by
  simp [readMonitorBlock]

theorem readProposalBlock_of_none {s : State} (h : s.proposal = none) : readProposalBlock s = (s, ⟨.noData, []⟩) := by
  simp [readProposalBlock, h, Answer.bare]

theorem readProposalBlock_of_some {s : State} {pr : Proposal} (h : s.proposal = some pr) :
    readProposalBlock s = (s, ⟨.ok, proposalRecord pr s.timebase⟩) := by
  simp [readProposalBlock, h]

/-- A frame's end changes no byte of the status record. -/
theorem statusRecord_endFrame (s : State) (p : Port) : statusRecord (s.endFrame p) p = statusRecord s p := by
  have hatt : ∀ q, ((s.endFrame p).port q).attached = (s.port q).attached ∧
      ((s.endFrame p).port q).number = (s.port q).number := by
    intro q
    rw [port_endFrame]
    split <;> simp [*]
  simp [statusRecord, hatt]

theorem commonRecord_endFrame (s : State) (p : Port) : commonRecord (s.endFrame p) = commonRecord s := rfl

/-- A frame's end changes no byte of the session's restatement. -/
theorem restateBlock_endFrame (s : State) (p : Port) : restateBlock p (s.endFrame p) = (s.endFrame p, ⟨.ok,
    [(s.port p).number, (s.port p).timeout] ++ be32 (remainingTime s p) ++ [subsByte (s.port p).subs]⟩) := by
  simp [restateBlock, remainingTime]

theorem remainingTime_of_none {s : State} {p : Port} (h : (s.port p).deadline = none) :
    remainingTime s p = 0xFFFFFFFF := by
  simp [remainingTime, h]

theorem deadline_eq_remainingTime {s : State} {p : Port} (h : (s.port p).deadline ≠ none) :
    (s.port p).deadline = some (s.timebase + remainingTime s p) := by
  obtain ⟨d, hd⟩ := Option.ne_none_iff_exists'.1 h
  rw [remainingTime, hd]
  simp

/-- Settles O22: the records do not change at a frame's end, so each read is a command that changes nothing. -/
theorem readingCommands : Obligations.ReadingCommands := by
  refine ⟨statusRecord_eq, fun s => ⟨pinModesByte s.pins, _, _, ?common, fun k => ?edges,
      getLsbD_commonBits s.entries (·.state) (Nat.le_refl 32), getLsbD_commonBits s.monitors (·.state) (by decide),
      fun i hi => getLsbD_commonBits_of_le s.monitors (·.state) hi⟩, proposalRecord_eq,
    fun s p tag => ⟨fun hj => ?status, fun hs => ⟨?readCommon, fun pr hp => ?proposal, fun hp => ?noProposal, fun e => ?entry,
      fun e he => ?noEntry, fun m => ?monitor, fun m hm => ?noMonitor⟩⟩,
    fun s p tag hs hl => ⟨remainingTime s p, ?restate, fun ht => ?forever, fun ht => ?deadline⟩⟩
  case common =>
    simp only [commonRecord, timerBytes_eq, requestBytes_eq, List.flatMap_cons, List.flatMap_nil, List.append_nil,
      List.append_assoc] <;> rfl
  case edges =>
    refine (pinModesByte_digit s.pins k).trans ?_
    rw [State.pin]
    cases (s.pins.get k).mode <;> rfl
  case status =>
    rw [exec_readStatus, answer_unchanged hj (by rw [readStatusBlock, statusRecord_endFrame])]
  case readCommon => rw [exec_readCommon, answerAttached_unchanged hs rfl, commonRecord_endFrame]
  case proposal => rw [exec_readProposal, answerAttached_unchanged hs (readProposalBlock_of_some hp), State.timebase_endFrame]
  case noProposal => rw [exec_readProposal, answerAttached_unchanged hs (readProposalBlock_of_none hp)]
  case entry => rw [exec_readEntry, answerAttached_unchanged hs (readEntryBlock_ofNat e _), State.entry_endFrame]
  case noEntry => rw [exec_readEntry, answerAttached_unchanged hs (readEntryBlock_of_le he _)]
  case monitor => rw [exec_readMonitor, answerAttached_unchanged hs (readMonitorBlock_ofNat m _), State.monitor_endFrame]
  case noMonitor => rw [exec_readMonitor, answerAttached_unchanged hs (readMonitorBlock_of_le hm _)]
  case restate => rw [exec_restate, answerAttached_unchanged hs (restateBlock_endFrame s p)]
  case forever => exact remainingTime_of_none ((hl.deadline hs.2).2 ht)
  case deadline => exact deadline_eq_remainingTime fun h => ht ((hl.deadline hs.2).1 h)

end Sys2Proof.Machine
end

section
/-! The Plan Table: the checks of entry contents, WRITE_ENTRY and RELEASE_ENTRY. -/

namespace Sys2Proof.Machine

/-! ### Frames that change the event queues -/

/-- A served command whose block acts alike before and after the frame's end. -/
theorem answerAttached_of_endFrame {s u : State} {p : Port} (h : Serves s p) {tag code : Byte}
    {block : State → State × Answer} {st : Status} {data : List Byte}
    (hb : block (s.endFrame p) = (u.endFrame p, ⟨st, data⟩)) :
    s.answerAttached p tag code block = u.answered p ⟨tag, code, st, data⟩ := by
  rw [answerAttached_served h, answer_judged h.1, hb]
  simp [State.answered, PortState.answered, PortState.restarted, endFrame_eq]

/-- What a command leaves the ports when its effect but the answer is on event queues alone. -/
theorem answered_of_sameButEvents {s u : State} {p : Port} (hu : ∀ q, (u.port q).SameButEvents (s.port q))
    (ht : u.timebase = s.timebase) (r : Response) : Answered s (u.answered p r) p r := by
  refine ⟨?_, fun q hq => ?_⟩
  · have h := hu p
    rw [PortState.SameButEvents] at h
    rw [State.answered, State.port_setPort, if_pos rfl, ht, h]
    rfl
  · rw [State.answered, State.port_setPort, if_neg hq]
    exact hu q

@[simp] theorem entry_answered (s : State) (p : Port) (r : Response) (e : EntryId) :
    (s.answered p r).entry e = s.entry e := rfl

@[simp] theorem monitor_answered (s : State) (p : Port) (r : Response) (m : MonId) :
    (s.answered p r).monitor m = s.monitor m := rfl

@[simp] theorem queue_answered (s : State) (p : Port) (r : Response) : (s.answered p r).queue = s.queue := rfl

theorem port_answered_of_ne {s : State} {p q : Port} (h : q ≠ p) (r : Response) : (s.answered p r).port q = s.port q := by
  rw [State.answered, State.port_setPort, if_neg h]

theorem events_answered (s : State) (p q : Port) (r : Response) :
    ((s.answered p r).port q).events = (s.port q).events := by
  rw [State.answered, State.port_setPort]
  split
  · rename_i h
    rw [h]
    rfl
  · rfl

/-! ### The checks of contents -/

theorem rawContents_eq (c : EntryContents) : rawContents c =
    { pos := match c.pos with | .ain n => BitVec.ofNat 8 n.val | .temp => 16 | .vmid => 17 | .zero => 18
      neg := match c.neg with | .ain n => BitVec.ofNat 8 n.val | .ground => 16
      gain := match c.gain with | .x1 => 0 | .x4 => 1 | .x16 => 2
      settle := BitVec.ofNat 8 c.settle.val
      avg := match c.avg with | .n1 => 0 | .n2 => 1 | .n4 => 2 | .n8 => 3
      dest := BitVec.ofNat 8 c.dest.val
      trigger := match c.trigger with
        | .off => 0x00 | .timer k => BitVec.ofNat 8 (0x10 + k.val) | .pin k => BitVec.ofNat 8 (0x20 + k.val)
      cls := BitVec.ofNat 8 c.cls.val
      link := match c.link with | none => 0xFF | some l => BitVec.ofNat 8 l.val
      notice := if c.notice = true then 1 else 0 } := by
  have hpos : ∀ x, posByte x = match x with | .ain n => BitVec.ofNat 8 n.val | .temp => 16 | .vmid => 17 | .zero => 18 := by
    rintro (_ | _) <;> rfl
  have hneg : ∀ x, negByte x = match x with | .ain n => BitVec.ofNat 8 n.val | .ground => 16 := by rintro (_ | _) <;> rfl
  have hgain : ∀ x, gainByte x = match x with | .x1 => 0 | .x4 => 1 | .x16 => 2 := by rintro (_ | _) <;> rfl
  have havg : ∀ x, avgByte x = match x with | .n1 => 0 | .n2 => 1 | .n4 => 2 | .n8 => 3 := by rintro (_ | _) <;> rfl
  have htrigger : ∀ x, triggerByte x = match x with
      | .off => 0x00 | .timer k => BitVec.ofNat 8 (0x10 + k.val) | .pin k => BitVec.ofNat 8 (0x20 + k.val) := by
    rintro (_ | k | k)
    · rfl
    · revert k
      decide
    · revert k
      decide
  have hlink : ∀ x : Option EntryId, optIndexByte x = match x with | none => 0xFF | some l => BitVec.ofNat 8 l.val := by
    rintro (_ | _) <;> rfl
  rw [rawContents, hpos, hneg, hgain, havg, htrigger, hlink]
  rfl

theorem rawMonitorContents_eq (c : MonitorContents) : rawMonitorContents c =
    { slot := BitVec.ofNat 8 c.slot.val, low := c.low, high := c.high, hyst := BitVec.ofNat 16 c.hyst.val
      persist := match c.persist with | .p1 => 1 | .p2 => 2 | .p3 => 3 | .p4 => 4
      edge := match c.edge with | .enterAbove => 0 | .enterBelow => 1 | .leaveInside => 2 | .anyChange => 3
      action := match c.action with | .notify => 0 | .notifyAndTrigger _ => 1
      target := match c.action with | .notify => 0xFF | .notifyAndTrigger e => BitVec.ofNat 8 e.val } := by
  have hpersist : ∀ x, byteOf (persistCount x) = match x with | .p1 => 1 | .p2 => 2 | .p3 => 3 | .p4 => 4 := by
    rintro (_ | _) <;> rfl
  have hedge : ∀ x, monitorEdgeByte x =
      match x with | .enterAbove => 0 | .enterBelow => 1 | .leaveInside => 2 | .anyChange => 3 := by
    rintro (_ | _) <;> rfl
  have haction : ∀ x, actionByte x = match x with | .notify => 0 | .notifyAndTrigger _ => 1 := by rintro (_ | _) <;> rfl
  have htarget : ∀ x, targetByte x = match x with | .notify => 0xFF | .notifyAndTrigger e => BitVec.ofNat 8 e.val := by
    rintro (_ | _) <;> rfl
  rw [rawMonitorContents, hpersist, hedge, haction, htarget]
  rfl

/-- Contents are read from the bytes they are written as and from no others. -/
theorem readContents_eq_some_iff {raw : RawEntry} {c : EntryContents} :
    readContents raw = some c ↔ raw = rawContents c :=
  ⟨eq_rawContents_of_readContents, fun h => h ▸ readContents_rawContents c⟩

theorem readMonitorContents_eq_some_iff {raw : RawMonitor} {c : MonitorContents} :
    readMonitorContents raw = some c ↔ raw = rawMonitorContents c :=
  ⟨eq_rawMonitorContents_of_readMonitorContents, fun h => h ▸ readMonitorContents_rawMonitorContents c⟩

/-- Inputs and gain that do not go together. -/
theorem inputsOk_eq_false_iff (c : EntryContents) : c.inputsOk = false ↔
    (∃ n, c.neg = .ain n ∧ (c.pos = .ain n ∨ c.pos = .temp ∨ c.pos = .vmid ∨ c.pos = .zero)) ∨
      (c.gain ≠ .x1 ∧ c.neg = .ground) := by
  obtain ⟨pos, neg, gain, _, _, _, _, _, _, _⟩ := c
  cases neg with
  | ground => simp [EntryContents.inputsOk]
  | ain n => cases pos <;> simp [EntryContents.inputsOk]

theorem inputsOk_iff (c : EntryContents) : c.inputsOk = true ↔
    ¬((∃ n, c.neg = .ain n ∧ (c.pos = .ain n ∨ c.pos = .temp ∨ c.pos = .vmid ∨ c.pos = .zero)) ∨
      (c.gain ≠ .x1 ∧ c.neg = .ground)) := by
  rw [← inputsOk_eq_false_iff, Bool.not_eq_false]

section
variable {s : State} {sc : Scope} {e : EntryId} {raw : RawEntry}

theorem checkContents_of_unread (h : readContents raw = none) : s.checkContents sc e raw = .error .invalid := by
  rw [State.checkContents, h]

variable {c : EntryContents}

theorem checkContents_of_inputs (h : readContents raw = some c) (hi : c.inputsOk = false) :
    s.checkContents sc e raw = .error .invalid := by
  simp [State.checkContents, h, hi]

theorem checkContents_of_link (h : readContents raw = some c) (hi : c.inputsOk = true) (hl : s.linkOk sc e c.link = true) :
    s.checkContents sc e raw = .ok c := by
  simp [State.checkContents, h, hi, hl]

theorem checkContents_of_no_link (h : readContents raw = some c) (hi : c.inputsOk = true)
    (hl : ¬s.linkOk sc e c.link = true) : s.checkContents sc e raw = .error .chainInvalid := by
  simp [State.checkContents, h, hi, hl]

end

/-- An absent link leaves only the chain that arrives. -/
theorem linkOk_none_iff {s : State} {sc : Scope} {e : EntryId} :
    s.linkOk sc e none = true ↔ s.backwardCount sc 32 e ≤ 7 := by
  simp [linkOk_iff, State.linkInScope, State.chainFrom]
  omega

theorem linkOk_some_iff {s : State} {sc : Scope} {e l : EntryId} : s.linkOk sc e (some l) = true ↔
    (s.entry l).state = .scoped sc ∧ l ≠ e ∧ e ∉ s.chainFrom 32 (some l) ∧
      (s.chainFrom 32 (some l)).length + 1 + s.backwardCount sc 32 e ≤ 8 := by
  simp [linkOk_iff, State.linkInScope]

/-- Settles O25: contents are read from their own bytes alone, and the counts of R10 are those of the law of links. -/
theorem contentChecks : Obligations.ContentChecks := by
  refine ⟨fun raw c => ?entry, fun raw c => ?monitor, fun s sc hl => ⟨fun l => hl.forward, hl.backward sc⟩,
    fun s sc e raw => ⟨checkContents_of_unread, fun c hc => ⟨fun hi => ?inputs, fun hi => ⟨fun hn hb => ?unlinked,
      fun l hl => ⟨fun hbad => ?refused, fun h1 h2 h3 h4 => ?linked⟩⟩⟩⟩⟩
  case entry => rw [readContents_eq_some_iff, rawContents_eq] <;> rfl
  case monitor => rw [readMonitorContents_eq_some_iff, rawMonitorContents_eq] <;> rfl
  case inputs => exact checkContents_of_inputs hc ((inputsOk_eq_false_iff c).2 hi)
  case unlinked => exact checkContents_of_link hc ((inputsOk_iff c).2 hi) (by rw [hn, linkOk_none_iff]; exact hb)
  case linked => exact checkContents_of_link hc ((inputsOk_iff c).2 hi) (by rw [hl, linkOk_some_iff]; exact ⟨h1, h2, h3, h4⟩)
  case refused =>
    refine checkContents_of_no_link hc ((inputsOk_iff c).2 hi) ?_
    rw [hl, linkOk_some_iff]
    rintro ⟨h1, h2, h3, h4⟩
    rcases hbad with h | h | h | h
    · exact h h1
    · exact h2 h
    · exact h3 h
    · omega

/-! ### WRITE_ENTRY -/

theorem exec_writeEntry (p : Port) (tag e : Byte) (raw : RawEntry) (s : State) :
    exec (.writeEntry p tag e raw) s = .next (s.answerAttached p tag 0x11 (writeEntryBlock p e raw)) := rfl

section
variable {s : State} {p : Port} {raw : RawEntry}

theorem writeEntryBlock_of_le {e : Byte} (h : 32 ≤ e.toNat) : writeEntryBlock p e raw s = (s, ⟨.invalid, []⟩) := by
  simp [writeEntryBlock, indexOf_eq_none h, Answer.bare]

variable {e : EntryId}

theorem writeEntryBlock_of_not_owned (h : (s.entry e).state ≠ .ownedBy p) :
    writeEntryBlock p (BitVec.ofNat 8 e.val) raw s = (s, ⟨.denied, []⟩) := by
  simp [writeEntryBlock, h, Answer.bare]

theorem writeEntryBlock_of_error (h : (s.entry e).state = .ownedBy p) {st : Status}
    (hc : s.checkContents (.own p) e raw = .error st) :
    writeEntryBlock p (BitVec.ofNat 8 e.val) raw s = (s, ⟨st, []⟩) := by
  simp [writeEntryBlock, h, hc, Answer.bare]

/-- The entry `e` with new contents, and its ticket discarded. -/
def State.edited (s : State) (e : EntryId) (c : EntryContents) : State :=
  (s.discardTicket e (some .edited)).setEntry e ((s.entry e).rewrite c)

theorem writeEntryBlock_of_ok (h : (s.entry e).state = .ownedBy p) {c : EntryContents}
    (hc : s.checkContents (.own p) e raw = .ok c) :
    writeEntryBlock p (BitVec.ofNat 8 e.val) raw s = (s.edited e c, ⟨.ok, [(s.entry e).revision + 1]⟩) := by
  simp [writeEntryBlock, h, hc, State.edited]

end

theorem edited_endFrame (s : State) (p : Port) (e : EntryId) (c : EntryContents) :
    (s.endFrame p).edited e c = (s.edited e c).endFrame p := by
  rw [State.edited, discardTicket_endFrame]
  rfl

theorem edited_frame (s : State) (e : EntryId) (c : EntryContents) :
    s.edited e c = { s with
      entries := (s.edited e c).entries, queue := s.queue.filter fun k => k.entry != e, ports := (s.edited e c).ports } := by
  have h := discardTicket_frame s e (some .edited)
  rw [State.edited]
  generalize s.discardTicket e (some .edited) = t at h ⊢
  rw [h]
  rfl

theorem entry_edited (s : State) (e x : EntryId) (c : EntryContents) :
    (s.edited e c).entry x = if x = e then (s.entry e).rewrite c else s.entry x := by
  rw [State.edited, State.entry_setEntry, entry_discardTicket]

theorem port_edited (s : State) (e : EntryId) (c : EntryContents) (q : Port) : (s.edited e c).port q =
    (s.port q).receive ((s.ticketOf e).isSome && (s.noticeSet (s.entry e).state (·.loss)).get q) (.discarded e .edited)
      s.timebase := port_discardTicket s e .edited q

theorem filter_bne_eq (q : List Ticket) (e : EntryId) :
    (q.filter fun k => k.entry != e) = q.filter fun k => decide (k.entry ≠ e) :=
  List.filter_congr fun k _ => by by_cases h : k.entry = e <;> simp [h]

theorem receive_sameButEvents (x : PortState) (b : Bool) (n : Notice) (now : Time) :
    (x.receive b n now).SameButEvents x := by
  rw [PortState.receive_eq]
  rfl

/-- A notice that goes to the owner alone does not reach another port. -/
theorem noticeSet_ownedBy_of_ne {s : State} {p q : Port} (h : q ≠ p) (kind : Subscriptions → Bool) :
    (s.noticeSet (.ownedBy p) kind).get q = false := by
  rw [← Bool.not_eq_true, noticeSet_iff]
  rintro ⟨hq | hq, -⟩
  · cases hq
    exact h rfl
  · cases hq

theorem noticeSet_ownedBy_self (s : State) (p : Port) (kind : Subscriptions → Bool) :
    (s.noticeSet (.ownedBy p) kind).get p = kind (s.port p).subs := by
  rw [Bool.eq_iff_iff, noticeSet_iff]
  simp

/-- Settles O26: the state `edited` commutes with the frame's end. -/
theorem writeEntryCommand : Obligations.WriteEntryCommand := by
  intro s p tag raw hs
  refine ⟨fun e he => ?invalid, fun e => ⟨fun h => ?denied, fun st h hc => ?refused, fun c h hc =>
    ⟨(s.edited e c).answered p ⟨tag, 0x11, .ok, [(s.entry e).revision + 1]⟩, ?written, ?rest, ?self,
    fun x hx => ?others, ?queue, ?answered, fun q hq => ?ports, ?events⟩⟩⟩
  case invalid => rw [exec_writeEntry, answerAttached_unchanged hs (writeEntryBlock_of_le he)]
  case denied => rw [exec_writeEntry, answerAttached_unchanged hs (writeEntryBlock_of_not_owned h)]
  case refused =>
    have hb := writeEntryBlock_of_error (s := s.endFrame p) h ((State.checkContents_endFrame ..).trans hc)
    rw [exec_writeEntry, answerAttached_unchanged hs hb]
  case written =>
    have hb := writeEntryBlock_of_ok (s := s.endFrame p) (raw := raw) h ((State.checkContents_endFrame ..).trans hc)
    rw [edited_endFrame, State.entry_endFrame] at hb
    rw [exec_writeEntry, answerAttached_of_endFrame hs hb]
  case rest =>
    have hf := edited_frame s e c
    generalize s.edited e c = u at hf ⊢
    rw [hf]
    rfl
  case self =>
    rw [entry_answered, entry_edited, if_pos rfl]
    rfl
  case others => rw [entry_answered, entry_edited, if_neg hx]
  case queue =>
    rw [queue_answered, edited_frame, ← filter_bne_eq]
  case answered =>
    refine answered_of_sameButEvents (fun q => ?_) (by rw [edited_frame]) _
    rw [port_edited]
    exact receive_sameButEvents ..
  case ports =>
    rw [port_answered_of_ne hq, port_edited, h, noticeSet_ownedBy_of_ne hq, Bool.and_false, PortState.receive_false]
  case events =>
    have ha : (s.port p).attached = true := hs.2
    rw [events_answered, port_edited, PortState.receive_eq, h, noticeSet_ownedBy_self]
    simp only [ha, and_true, Bool.and_eq_true, ticketOf_isSome_iff]

/-! ### RELEASE_ENTRY -/

theorem exec_releaseEntry (p : Port) (tag e : Byte) (s : State) :
    exec (.releaseEntry p tag e) s = .next (s.answerAttached p tag 0x13 (releaseEntryBlock p e)) := rfl

section
variable {s : State} {p : Port}

theorem releaseEntryBlock_of_le {e : Byte} (h : 32 ≤ e.toNat) : releaseEntryBlock p e s = (s, ⟨.invalid, []⟩) := by
  simp [releaseEntryBlock, indexOf_eq_none h, Answer.bare]

theorem releaseEntryBlock_of_not_owned {e : EntryId} (h : (s.entry e).state ≠ .ownedBy p) :
    releaseEntryBlock p (BitVec.ofNat 8 e.val) s = (s, ⟨.denied, []⟩) := by
  simp [releaseEntryBlock, h, Answer.bare]

theorem releaseEntryBlock_of_owned {e : EntryId} (h : (s.entry e).state = .ownedBy p) :
    releaseEntryBlock p (BitVec.ofNat 8 e.val) s = (s.leaveScope e true, ⟨.ok, [(s.entry e).revision + 1]⟩) := by
  simp [releaseEntryBlock, h]

end

/-- Under the law of links, the monitors that target an entry in a scope are those of its scope that name it. -/
theorem LinkLaw.targets_iff {s : State} (hl : LinkLaw s) {e : EntryId} {sc : Scope} (he : (s.entry e).state = .scoped sc)
    (m : MonId) : s.targets m e = true ↔
      (s.monitor m).state = .scoped sc ∧ (s.monitor m).contents.action = .notifyAndTrigger e := by
  rw [State.targets, Bool.and_eq_true, beq_iff_eq]
  refine and_congr_left fun ha => ⟨fun h => ?_, fun h => ?_⟩
  · rcases hm : (s.monitor m).state with _ | _ | sc'
    · rw [hm] at h
      cases h
    · rw [hm] at h
      cases h
    · have := hl.target m sc' e hm ha
      rw [← this, he]
  · rw [h]
    rfl

/-- What the release procedure tells the ports, under the law of links. -/
theorem LinkLaw.events_leaveScope {s : State} (hl : LinkLaw s) {e : EntryId} {sc : Scope}
    (he : (s.entry e).state = .scoped sc) (q : Port) :
    (s.leaveScope e true).port q = { s.port q with
      events := if (s.port q).attached = true then
          ((List.finRange 12).filter fun m => (s.monitor m).state = .scoped sc ∧
              (s.monitor m).contents.action = .notifyAndTrigger e ∧
              (s.noticeSet (.scoped sc) (·.monitor)).get q = true).foldl
            (fun l m => enqueue l (.monitor m .retargeted (BitVec.ofNat 16 e.val)) s.timebase)
            (if (∃ k ∈ s.queue, k.entry = e) ∧ (s.noticeSet (.scoped sc) (·.loss)).get q = true then
              enqueue (s.port q).events (.discarded e .released) s.timebase else (s.port q).events)
        else (s.port q).events } := by
  have hfilter : ((List.finRange 12).filter fun m =>
        s.targets m e && (s.noticeSet (s.monitor m).state (·.monitor)).get q) =
      (List.finRange 12).filter fun m => (s.monitor m).state = .scoped sc ∧
        (s.monitor m).contents.action = .notifyAndTrigger e ∧ (s.noticeSet (.scoped sc) (·.monitor)).get q = true := by
    refine List.filter_congr fun m _ => ?_
    rw [Bool.eq_iff_iff, Bool.and_eq_true, hl.targets_iff he, decide_eq_true_iff, and_assoc]
    refine and_congr_right fun hm => ?_
    rw [hm]
  rw [port_leaveScope, hfilter, he]
  simp only [Bool.and_eq_true, ticketOf_isSome_iff]

theorem LinkLaw.monitor_leaveScope {s : State} (hl : LinkLaw s) {e : EntryId} {sc : Scope}
    (he : (s.entry e).state = .scoped sc) (b : Bool) (m : MonId) : (s.leaveScope e b).monitor m =
      if (s.monitor m).state = .scoped sc ∧ (s.monitor m).contents.action = .notifyAndTrigger e then
        { s.monitor m with contents := { (s.monitor m).contents with action := .notify } }
      else s.monitor m := by
  rw [Sys2Proof.Machine.monitor_leaveScope]
  simp only [hl.targets_iff he]
  rfl

/-- Settles O27: the release procedure commutes with the frame's end, and the law of links makes the targets those of
the scope. -/
theorem releaseEntryCommand : Obligations.ReleaseEntryCommand := by
  intro s p tag hs
  refine ⟨fun e he => ?invalid, fun e => ⟨fun h => ?denied, fun h hl =>
    ⟨(s.leaveScope e true).answered p ⟨tag, 0x13, .ok, [(s.entry e).revision + 1]⟩, ?released, ?rest, ?self,
    fun x hx => ?others,
    fun m => ?monitors, ?queue, ?answered, fun q hq => ?ports, ?events⟩⟩⟩
  case invalid => rw [exec_releaseEntry, answerAttached_unchanged hs (releaseEntryBlock_of_le he)]
  case denied => rw [exec_releaseEntry, answerAttached_unchanged hs (releaseEntryBlock_of_not_owned h)]
  case released =>
    have hb := releaseEntryBlock_of_owned (s := s.endFrame p) (p := p) (e := e) h
    rw [leaveScope_endFrame, State.entry_endFrame] at hb
    rw [exec_releaseEntry, answerAttached_of_endFrame hs hb]
  case rest =>
    have hf := leaveScope_frame s e true
    generalize s.leaveScope e true = u at hf ⊢
    rw [hf]
    rfl
  case self => rw [entry_answered, entry_leaveScope, if_pos rfl]
  case others => rw [entry_answered, entry_leaveScope, if_neg hx, h]
  case monitors => rw [monitor_answered, hl.monitor_leaveScope h]
  case queue => rw [queue_answered, queue_leaveScope, filter_bne_eq]
  case answered =>
    exact answered_of_sameButEvents (fun q => leaveScope_sameButEvents ..) (by rw [leaveScope_frame]) _
  case ports =>
    rw [port_answered_of_ne hq, hl.events_leaveScope h, noticeSet_ownedBy_of_ne hq, noticeSet_ownedBy_of_ne hq]
    simp
  case events =>
    have ha : (s.port p).attached = true := hs.2
    rw [events_answered, hl.events_leaveScope h, noticeSet_ownedBy_self, noticeSet_ownedBy_self]
    simp only [ha, if_true]

end Sys2Proof.Machine
end

section
/-! Triggers and the Dispatch Queue: REQUEST, TIMER_EXPIRY, the commands of the pins, and the Arbiter. -/

namespace Sys2Proof.Machine

/-! ### REQUEST -/

theorem exec_request (p : Port) (tag e : Byte) (s : State) :
    exec (.request p tag e) s = .next (s.answerAttached p tag 0x18 (requestBlock p e)) := rfl

/-- The trigger of a REQUEST does not look at the ports. -/
theorem trigger_port_endFrame (s : State) (p q : Port) (e : EntryId) : (s.endFrame p).trigger e (.port q) =
    ((s.trigger e (.port q)).1.endFrame p, (s.trigger e (.port q)).2) := by
  unfold State.trigger
  simp only [State.entry_endFrame, State.ticketOf_endFrame, State.atQuota_endFrame, State.queue_endFrame,
    State.arrival_endFrame]
  split
  · split
    · rfl
    · split
      · rfl
      · by_cases h : 24 ≤ s.queue.length <;> simp only [h, if_true, if_false] <;> rfl
  · rfl

theorem requestTrigger_endFrame (s : State) (p : Port) (e : EntryId) : requestTrigger p e (s.endFrame p) =
    ((requestTrigger p e s).1.endFrame p, (requestTrigger p e s).2) := by
  simp only [requestTrigger, trigger_port_endFrame, consult_endFrame]
  cases (s.trigger e (.port p)).2 <;> rfl

section
variable {s : State} {p : Port}

theorem requestBlock_of_le {e : Byte} (h : 32 ≤ e.toNat) : requestBlock p e s = (s, ⟨.invalid, []⟩) := by
  simp [requestBlock, indexOf_eq_none h, Answer.bare]

variable {e : EntryId}

theorem requestBlock_of_not_inScope (h : (s.entry e).state.inScope = false) :
    requestBlock p (BitVec.ofNat 8 e.val) s = (s, ⟨.invalid, []⟩) := by
  rcases he : (s.entry e).state with _ | _ | sc
  · simp [requestBlock, he, Answer.bare]
  · simp [requestBlock, he, Answer.bare]
  · rw [he] at h
    cases h

theorem requestBlock_of_owned_by_other {q : Port} (hq : q ≠ p) (h : (s.entry e).state = .ownedBy q) :
    requestBlock p (BitVec.ofNat 8 e.val) s = (s, ⟨.denied, []⟩) := by
  simp [requestBlock, h, hq, Answer.bare]

/-- An entry that the port may request is triggered. -/
theorem requestBlock_of_owned_or_shared (h : (s.entry e).state = .ownedBy p ∨ (s.entry e).state = .shared) :
    requestBlock p (BitVec.ofNat 8 e.val) s = requestTrigger p e s := by
  rcases h with h | h <;> simp [requestBlock, h]

theorem requestTrigger_of_trigger {u : State} {a : Admission} (h : s.trigger e (.port p) = (u, a)) :
    requestTrigger p e s = (u.consult, requestAnswer u.consult p a) := by
  rw [requestTrigger, h]

end

/-- A REQUEST of an entry that the port may request: the trigger, the consultation, and the answer. -/
theorem exec_request_of_trigger {s : State} {p : Port} (hs : Serves s p) (tag : Byte) {e : EntryId}
    (h : (s.entry e).state = .ownedBy p ∨ (s.entry e).state = .shared) {u t : State} {a : Admission}
    (ha : s.trigger e (.port p) = (u, a)) (hu : u.consult = t) {st : Status} {data : List Byte}
    (hr : requestAnswer t p a = ⟨st, data⟩) :
    exec (.request p tag (BitVec.ofNat 8 e.val)) s = .next (t.answered p ⟨tag, 0x18, st, data⟩) := by
  have hb : requestBlock p (BitVec.ofNat 8 e.val) (s.endFrame p) = (t.endFrame p, ⟨st, data⟩) := by
    rw [requestBlock_of_owned_or_shared (s := s.endFrame p) h, requestTrigger_endFrame, requestTrigger_of_trigger ha, hu, hr]
  rw [exec_request, answerAttached_of_endFrame hs hb]

theorem inScope_of_owned_or_shared {x : ItemState} {p : Port} (h : x = .ownedBy p ∨ x = .shared) : x.inScope = true := by
  rcases h with rfl | rfl <;> rfl

/-- While a ticket waits the converter is at work. -/
theorem QueueLaw.busy {s : State} (hq : QueueLaw s) (h : s.queue ≠ []) : s.converter ≠ .idle := fun hi => h (hq.idle hi)

theorem not_atQuota_port {s : State} {p : Port} (h : s.waiting p < 6) : s.atQuota (.port p) ≠ true :=
  not_atQuota_of_waiting_lt fun q hq => by
    cases hq
    exact h

theorem queue_ne_nil_of_ticket {s : State} {e : EntryId} {k : Ticket} (h : s.ticketOf e = some k) : s.queue ≠ [] := by
  intro hq
  rw [State.ticketOf, hq] at h
  cases h

theorem queue_ne_nil_of_waiting {s : State} {p : Port} (h : s.waiting p ≠ 0) : s.queue ≠ [] := by
  intro hq
  rw [State.waiting, hq] at h
  exact h rfl

/-- The Arbiter has one ticket, the one just appended, and dispatches it. -/
theorem consult_append_of_idle {s : State} {e : EntryId} {o : Origin} {sc : Scope} (hi : s.converter = .idle)
    (hq : s.queue = []) (he : (s.entry e).state = .scoped sc) : (s.append e o).consult =
      { s with
        arrival := s.arrival + 1
        converter := .settling
          { entry := e, pos := (s.entry e).contents.pos, neg := (s.entry e).contents.neg,
            gain := (s.entry e).contents.gain, settle := (s.entry e).contents.settle,
            avg := (s.entry e).contents.avg, dest := (s.entry e).contents.dest,
            link := (s.entry e).contents.link, notice := (s.entry e).contents.notice,
            revision := (s.entry e).revision, scope := sc, position := 1 }
        work := some ((8 + 8 * (s.entry e).contents.settle.val) * clockPeriod s.clock.active) } := by
  have hone : (s.append e o).queue = [⟨e, o, (s.entry e).contents.cls, s.arrival, s.timebase⟩] := by
    rw [State.append, hq]
    rfl
  have hk : choose (s.append e o).aging (s.append e o).timebase (s.append e o).queue =
      some ⟨e, o, (s.entry e).contents.cls, s.arrival, s.timebase⟩ := by
    rw [hone]
    rfl
  have hnone : ((s.append e o).queue.filter fun x => x.entry ≠ e) = s.queue := by
    rw [hone, hq]
    simp
  rw [consult_of_choice (s := s.append e o) hi hk he, State.dispatched, hnone]
  rfl

/-- Settles O29: a trigger with room, and the consultation that finds the converter at work or IDLE. -/
theorem requestAdmitted : Obligations.RequestAdmitted := by
  refine ⟨fun s p tag e hs he hk hw hl hc => ?waits, fun s p tag e sc hs he hsc hq hi => ?dispatched⟩
  case waits =>
    have ht := trigger_of_room (inScope_of_owned_or_shared he) hk (not_atQuota_port hw) hl
    have hlen : (s.append e (.port p)).queue.length = s.queue.length + 1 := List.length_append
    rw [exec_request_of_trigger hs tag he ht (consult_of_busy hc) rfl, hlen]
    rfl
  case dispatched =>
    have hown : (s.entry e).state = .ownedBy p ∨ (s.entry e).state = .shared := by
      rcases hsc with rfl | rfl
      · exact .inl he
      · exact .inr he
    have hnil : s.queue = [] := hq.idle hi
    have hk : s.ticketOf e = none := by rw [State.ticketOf, hnil]; rfl
    have hw : s.waiting p < 6 := by rw [State.waiting, hnil, List.countP_nil]; decide
    have hl : s.queue.length < 24 := by rw [hnil]; decide
    have ht := trigger_of_room (inScope_of_owned_or_shared hown) hk (not_atQuota_port hw) hl
    rw [exec_request_of_trigger hs tag hown ht (consult_append_of_idle hi hnil he) rfl]
    simp only [hnil] <;> rfl

/-- Settles O30: while a ticket waits the converter is at work, so the consultation does nothing. -/
theorem requestOtherwise : Obligations.RequestOtherwise := by
  intro s p tag hs hq
  refine ⟨fun e he => ?index, fun e => ⟨fun h => ?invalid, fun q hqp h => ?denied, fun h => ⟨fun k hk => ?coalesced,
    fun hk hw => ?quota, fun hk hw hl => ?full⟩⟩⟩
  case index => rw [exec_request, answerAttached_unchanged hs (requestBlock_of_le he)]
  case invalid => rw [exec_request, answerAttached_unchanged hs (requestBlock_of_not_inScope h)]
  case denied => rw [exec_request, answerAttached_unchanged hs (requestBlock_of_owned_by_other hqp h)]
  all_goals have hin := inScope_of_owned_or_shared h
  case coalesced =>
    have hbusy := hq.busy (queue_ne_nil_of_ticket hk)
    rw [exec_request_of_trigger hs tag h (trigger_of_ticket hin hk) (consult_of_busy hbusy) rfl]
    rfl
  case quota =>
    have hbusy := hq.busy (queue_ne_nil_of_waiting (p := p) (by omega))
    have hat : s.atQuota (.port p) = true := atQuota_iff.2 ⟨p, rfl, by omega⟩
    rw [exec_request_of_trigger hs tag h (trigger_of_atQuota hin hk hat) (consult_of_busy hbusy) rfl, hw]
    rfl
  case full =>
    have hbusy := hq.busy (fun h0 => by rw [h0] at hl; cases hl)
    have ht := trigger_of_full hin hk (not_atQuota_port hw) (by omega)
    rw [dropTrigger_port] at ht
    rw [exec_request_of_trigger hs tag h ht (consult_of_busy hbusy) rfl, hl]
    rfl

/-! ### TIMER_EXPIRY -/

theorem exec_timerExpiry (k : TimerId) (s : State) :
    exec (.timerExpiry k) s = .next (s.unlessHeld (timerExpiryEvent k)) := rfl

theorem timerExpiryEvent_of_due {s : State} {k : TimerId} (h : (s.timer k).run = .running s.timebase) :
    timerExpiryEvent k s = s.expire k s.timebase := by
  simp [timerExpiryEvent, h]

theorem timerExpiryEvent_of_not_due {s : State} {k : TimerId} (h : (s.timer k).run ≠ .running s.timebase) :
    timerExpiryEvent k s = s := by
  unfold timerExpiryEvent
  split
  · rename_i next hr
    rw [if_neg]
    rintro rfl
    exact h hr
  · rfl

/-- Settles O32: the event at a due timer is the expiry itself. -/
theorem timerExpiryCommand : Obligations.TimerExpiryCommand := by
  intro s k hr
  refine ⟨fun h => ?due, fun h => ?other⟩
  case due =>
    rw [exec_timerExpiry, unlessHeld_released hr, timerExpiryEvent_of_due h]
    rfl
  case other => rw [exec_timerExpiry, unlessHeld_released hr, timerExpiryEvent_of_not_due h]

/-! ### The pins -/

theorem exec_pinEdge (k : PinId) (l : Level) (s : State) :
    exec (.pinEdge k l) s = .next (s.unlessHeld (pinEdgeEvent k l)) := rfl

theorem exec_pinInitialLevel (k : PinId) (l : Level) (s : State) :
    exec (.pinInitialLevel k l) s = .next (s.unlessHeld (pinInitialLevelEvent k l)) := rfl

section
variable {s : State} {k : PinId} {l : Level}

theorem pinInitialLevelEvent_of_short (h : (s.pin k).since < 20) : pinInitialLevelEvent k l s = s := by
  unfold pinInitialLevelEvent
  split
  · simp [Pin.held, h]
  · rfl

theorem pinInitialLevelEvent_of_held (hn : (s.pin k).level = none) (h : 20 ≤ (s.pin k).since) :
    pinInitialLevelEvent k l s = s.setPin k ⟨(s.pin k).mode, some l, 0⟩ := by
  simp [pinInitialLevelEvent, hn, Pin.held, h, Pin.accept]

theorem pinInitialLevelEvent_of_recorded {old : Level} (ho : (s.pin k).level = some old) :
    pinInitialLevelEvent k l s = s := by
  simp [pinInitialLevelEvent, ho]

theorem pinEdgeEvent_of_unrecorded (hn : (s.pin k).level = none) : pinEdgeEvent k l s = s := by
  simp [pinEdgeEvent, hn]

theorem pinEdgeEvent_of_short (h : (s.pin k).since < 20) : pinEdgeEvent k l s = s := by
  unfold pinEdgeEvent
  split
  · rfl
  · simp [Pin.held, h]

theorem pinEdgeEvent_of_same (ho : (s.pin k).level = some l) : pinEdgeEvent k l s = s := by
  simp [pinEdgeEvent, ho]

variable {old : Level}

theorem pinEdgeEvent_of_qualifies (ho : (s.pin k).level = some old) (hne : old ≠ l) (h : 20 ≤ (s.pin k).since)
    (hq : edgeQualifies (s.pin k).mode l = true) :
    pinEdgeEvent k l s = (s.setPin k ⟨(s.pin k).mode, some l, 0⟩).fanOut (.pin k) (.pin k) := by
  simp [pinEdgeEvent, ho, hne, Pin.held, h, hq, Pin.accept]

theorem pinEdgeEvent_of_not_qualifies (ho : (s.pin k).level = some old) (hne : old ≠ l) (h : 20 ≤ (s.pin k).since)
    (hq : edgeQualifies (s.pin k).mode l = false) :
    pinEdgeEvent k l s = s.setPin k ⟨(s.pin k).mode, some l, 0⟩ := by
  simp [pinEdgeEvent, ho, hne, Pin.held, h, hq, Pin.accept]

end

theorem edgeQualifies_iff (mode : EdgeMode) (l : Level) : edgeQualifies mode l = true ↔
    mode = .both ∨ (mode = .rising ∧ l = .high) ∨ (mode = .falling ∧ l = .low) := by
  cases mode <;> simp [edgeQualifies]

theorem edgeQualifies_eq_false_iff (mode : EdgeMode) (l : Level) : edgeQualifies mode l = false ↔
    mode = .off ∨ (mode = .rising ∧ l = .low) ∨ (mode = .falling ∧ l = .high) := by
  cases mode <;> cases l <;> simp [edgeQualifies]

/-- Settles O33: a case for each thing the two events test. -/
theorem pinCommands : Obligations.PinCommands := by
  intro s k l hr
  simp only [exec_pinEdge, exec_pinInitialLevel, unlessHeld_released hr]
  refine ⟨fun h => ⟨?shortInitial, ?shortEdge⟩, fun hn => ⟨?unrecorded, fun h => ?initial⟩, fun old ho => ⟨?recorded,
    fun h => ?same, fun hne h => ⟨fun hq => ?qualifies, fun hq => ?other⟩⟩⟩
  case shortInitial => rw [pinInitialLevelEvent_of_short h]
  case shortEdge => rw [pinEdgeEvent_of_short h]
  case unrecorded => rw [pinEdgeEvent_of_unrecorded hn]
  case initial => rw [pinInitialLevelEvent_of_held hn h]
  case recorded => rw [pinInitialLevelEvent_of_recorded ho]
  case same => rw [pinEdgeEvent_of_same (ho.trans (congrArg some h))]
  case qualifies =>
    rw [pinEdgeEvent_of_qualifies ho hne h ((edgeQualifies_iff ..).2 hq)]
    rfl
  case other => rw [pinEdgeEvent_of_not_qualifies ho hne h ((edgeQualifies_eq_false_iff ..).2 hq)]

/-! ### The Arbiter -/

/-- The choice stands before every ticket of its class, and after lower classes alone. -/
theorem exists_split_of_choose (aging : BitVec 8) (now : Time) {q : List Ticket} (hq : q ≠ []) :
    ∃ front t back, q = front ++ t :: back ∧ choose aging now q = some t ∧
      (∀ u ∈ front, effectiveClass aging now u < effectiveClass aging now t) ∧
      (∀ u ∈ back, effectiveClass aging now u ≤ effectiveClass aging now t) := by
  induction q with
  | nil => exact absurd rfl hq
  | cons t ts ih =>
    by_cases hts : ts = []
    · subst hts
      exact ⟨[], t, [], rfl, rfl, nofun, nofun⟩
    · obtain ⟨front, u, back, hsplit, hu, hfront, hback⟩ := ih hts
      by_cases hlt : effectiveClass aging now t < effectiveClass aging now u
      · refine ⟨t :: front, u, back, by rw [hsplit, List.cons_append], ?_, ?_, hback⟩
        · simp [choose, hu, hlt]
        · rintro x (_ | ⟨_, hx⟩)
          · exact hlt
          · exact hfront x hx
      · refine ⟨[], t, ts, rfl, ?_, nofun, fun x hx => ?_⟩
        · simp [choose, hu, hlt]
        · have hxu : effectiveClass aging now x ≤ effectiveClass aging now u := by
            rw [hsplit, List.mem_append, List.mem_cons] at hx
            rcases hx with hx | rfl | hx
            · exact (hfront x hx).le
            · exact le_rfl
            · exact hback x hx
          omega

theorem effectiveClass_of_no_aging (now : Time) (t : Ticket) : effectiveClass 0 now t = t.cls.val := if_pos rfl

theorem effectiveClass_of_aging {aging : BitVec 8} (h : aging ≠ 0) (now : Time) (t : Ticket) :
    effectiveClass aging now t = min 3 (t.cls.val + (now - t.time).toNat / (aging.toNat * 1000)) := if_neg h

/-- Settles O34: by induction on the queue, as `choose` recurs on it. -/
theorem arbiterChoiceAndClass : Obligations.ArbiterChoiceAndClass := by
  refine ⟨fun s => ⟨consult_of_busy, consult_of_empty, fun k sc => consult_of_choice⟩,
    fun aging now q => ⟨fun h => ?empty, exists_split_of_choose aging now⟩,
    fun now t => ⟨effectiveClass_of_no_aging now t, fun aging h => ⟨effectiveClass_of_aging h now t, fun h3 => ?top⟩⟩⟩
  case empty =>
    rw [h]
    rfl
  case top =>
    rw [effectiveClass_of_aging h, h3]
    exact min_eq_left (Nat.le_add_right ..)

end Sys2Proof.Machine
end

section
/-! The stages of a conversion, the sample codes and the value of a conversion. -/

namespace Sys2Proof.Machine

/-! ### The stages -/

theorem exec_endOfSettling (s : State) : exec .endOfSettling s = .next (s.unlessHeld endOfSettlingEvent) := rfl

theorem exec_endOfSample (x : Analog) (s : State) :
    exec (.endOfSample x) s = .next (s.unlessHeld (endOfSampleEvent x)) := rfl

theorem exec_completion (x : Analog) (s : State) :
    exec (.completion x) s = .next (s.unlessHeld (completionEvent x)) := rfl

theorem exec_calibrationEnd (found : Calibration) (s : State) :
    exec (.calibrationEnd found) s = .next (s.unlessHeld (calibrationEndEvent found)) := rfl

theorem workDue_of_zero {s : State} (h : s.work = some 0) : s.workDue = true := workDue_iff.2 h

theorem unlessHeld_of_unchanged {s : State} {f : State → State} (h : f s = s) : s.unlessHeld f = s := by
  rw [State.unlessHeld, h]
  split <;> rfl

section
variable {s : State}

theorem endOfSettlingEvent_of_due (hw : s.work = some 0) {c : Copy} (hc : s.converter = .settling c) :
    endOfSettlingEvent s =
      { s with converter := .sampling c 0 0 false, work := some (18 * clockPeriod s.clock.active) } := by
  unfold endOfSettlingEvent
  rw [hc]
  exact if_pos (workDue_of_zero hw)

theorem endOfSettlingEvent_of_not_due (hw : s.work ≠ some 0) : endOfSettlingEvent s = s := by
  unfold endOfSettlingEvent
  split
  · exact if_neg fun h => hw (workDue_iff.1 h)
  all_goals rfl

theorem endOfSettlingEvent_of_not_settling (hc : ∀ c, s.converter ≠ .settling c) : endOfSettlingEvent s = s := by
  unfold endOfSettlingEvent
  split
  · rename_i c h
    exact absurd h (hc c)
  all_goals rfl

variable {x : Analog}

theorem endOfSampleEvent_of_due (hw : s.work = some 0) {c : Copy} {taken : Nat} {sum : Int} {full : Bool}
    (hc : s.converter = .sampling c taken sum full) (hx : 0 < x.vref) (hn : taken + 1 < avgCount c.avg) :
    endOfSampleEvent x s = { s with
      converter := .sampling c (taken + 1) (sum + sampleCode s.calibration c x)
        (full || isFullScale c (sampleCode s.calibration c x))
      work := some (18 * clockPeriod s.clock.active) } := by
  unfold endOfSampleEvent
  rw [hc]
  exact if_pos ⟨workDue_of_zero hw, hx, hn⟩

/-- END_OF_SAMPLE comes about at a sample other than the last, counted out, with a reference above ground. -/
theorem endOfSampleEvent_of_not (h : ∀ c taken sum full, s.converter = .sampling c taken sum full →
    ¬(s.work = some 0 ∧ 0 < x.vref ∧ taken + 1 < avgCount c.avg)) : endOfSampleEvent x s = s := by
  unfold endOfSampleEvent
  split
  · rename_i c taken sum full hc
    exact if_neg fun hh => h c taken sum full hc ⟨workDue_iff.1 hh.1, hh.2⟩
  all_goals rfl

theorem completionEvent_of_due (hw : s.work = some 0) {c : Copy} {taken : Nat} {sum : Int} {full : Bool}
    (hc : s.converter = .sampling c taken sum full) (hx : 0 < x.vref) (hn : avgCount c.avg ≤ taken + 1) :
    completionEvent x s =
      s.complete c (sum + sampleCode s.calibration c x) (full || isFullScale c (sampleCode s.calibration c x)) := by
  unfold completionEvent
  rw [hc]
  exact if_pos ⟨workDue_of_zero hw, hx, hn⟩

/-- COMPLETION comes about at the last sample, counted out, with a reference above ground. -/
theorem completionEvent_of_not (h : ∀ c taken sum full, s.converter = .sampling c taken sum full →
    ¬(s.work = some 0 ∧ 0 < x.vref ∧ avgCount c.avg ≤ taken + 1)) : completionEvent x s = s := by
  unfold completionEvent
  split
  · rename_i c taken sum full hc
    exact if_neg fun hh => h c taken sum full hc ⟨workDue_iff.1 hh.1, hh.2⟩
  all_goals rfl

variable {found : Calibration}

theorem calibrationEndEvent_of_due (hw : s.work = some 0) (hc : s.converter = .calibrating) :
    calibrationEndEvent found s = ({ s with calibration := some found } : State).workEnds := by
  unfold calibrationEndEvent
  rw [hc]
  exact if_pos (workDue_of_zero hw)

theorem calibrationEndEvent_of_not_due (hw : s.work ≠ some 0) : calibrationEndEvent found s = s := by
  unfold calibrationEndEvent
  split
  · exact if_neg fun h => hw (workDue_iff.1 h)
  all_goals rfl

theorem calibrationEndEvent_of_not_calibrating (hc : s.converter ≠ .calibrating) : calibrationEndEvent found s = s := by
  unfold calibrationEndEvent
  split
  · rename_i h
    exact absurd h hc
  all_goals rfl

end

/-- Settles O35: each stage by what its event tests. -/
theorem conversionStages : Obligations.ConversionStages := by
  refine ⟨fun s hr => ⟨fun hw => ⟨fun c hc => ?settled, fun c taken sum full x hc hx hn => ?sampled⟩,
      fun x found hw => ⟨?settlingUndue, ?sampleUndue, ?completionUndue, ?calibrationUndue⟩⟩,
    fun s x found => ⟨fun hh => ⟨?_, ?_, ?_, ?_⟩, fun hc => ?notSettling, fun hc => ?notSampling, fun hc => ?notLast,
      fun hx => ⟨?sampleGround, ?completionGround⟩, fun hc => ?notCalibrating⟩,
    rfl, rfl, rfl, rfl, rfl, rfl, rfl, rfl, rfl, rfl, rfl⟩
  case settled => rw [exec_endOfSettling, unlessHeld_released hr, endOfSettlingEvent_of_due hw hc]
  case sampled => rw [exec_endOfSample, unlessHeld_released hr, endOfSampleEvent_of_due hw hc hx hn]
  case settlingUndue => rw [exec_endOfSettling, unlessHeld_of_unchanged (endOfSettlingEvent_of_not_due hw)]
  case sampleUndue =>
    rw [exec_endOfSample, unlessHeld_of_unchanged (endOfSampleEvent_of_not fun _ _ _ _ _ h => hw h.1)]
  case completionUndue =>
    rw [exec_completion, unlessHeld_of_unchanged (completionEvent_of_not fun _ _ _ _ _ h => hw h.1)]
  case calibrationUndue => rw [exec_calibrationEnd, unlessHeld_of_unchanged (calibrationEndEvent_of_not_due hw)]
  case notSettling => rw [exec_endOfSettling, unlessHeld_of_unchanged (endOfSettlingEvent_of_not_settling hc)]
  case notSampling =>
    rw [exec_endOfSample, unlessHeld_of_unchanged (endOfSampleEvent_of_not fun c taken sum full h ⟨_, _, hn⟩ =>
      absurd (hc c taken sum full h) (by omega))]
  case notLast =>
    rw [exec_completion, unlessHeld_of_unchanged (completionEvent_of_not fun c taken sum full h ⟨_, _, hn⟩ =>
      absurd (hc c taken sum full h) (by omega))]
  case sampleGround =>
    rw [exec_endOfSample, unlessHeld_of_unchanged (endOfSampleEvent_of_not fun _ _ _ _ _ ⟨_, h, _⟩ => by omega)]
  case completionGround =>
    rw [exec_completion, unlessHeld_of_unchanged (completionEvent_of_not fun _ _ _ _ _ ⟨_, h, _⟩ => by omega)]
  case notCalibrating => rw [exec_calibrationEnd, unlessHeld_of_unchanged (calibrationEndEvent_of_not_calibrating hc)]
  · rw [exec_endOfSettling, unlessHeld_held hh]
  · rw [exec_endOfSample, unlessHeld_held hh]
  · rw [exec_completion, unlessHeld_held hh]
  · rw [exec_calibrationEnd, unlessHeld_held hh]

/-! ### Sample codes -/

theorem lowCode_lt_highCode (c : Copy) : lowCode c < highCode c := by
  unfold lowCode highCode
  split <;> decide

section
variable {cal : Option Calibration} {c : Copy} {x : Analog}

theorem sampleCode_of_low (h : nominalCode c x ≤ lowCode c) : sampleCode cal c x = lowCode c := if_pos h

theorem sampleCode_of_high (h : highCode c ≤ nominalCode c x) : sampleCode cal c x = highCode c := by
  have := lowCode_lt_highCode c
  rw [sampleCode, if_neg (by omega), if_pos h]

theorem clampCode_eq (c : Copy) (code : Int) : clampCode c code = max (lowCode c) (min (highCode c) code) := by
  have := lowCode_lt_highCode c
  unfold clampCode
  split
  · omega
  · split <;> omega

theorem sampleCode_of_between (hl : lowCode c < nominalCode c x) (hh : nominalCode c x < highCode c) :
    sampleCode cal c x = max (lowCode c) (min (highCode c) (Config.calibrated cal (nominalCode c x))) := by
  rw [sampleCode, if_neg (by omega), if_neg (by omega), clampCode_eq]

theorem isFullScale_iff (code : Int) : isFullScale c code = true ↔ code = lowCode c ∨ code = highCode c := by
  simp [isFullScale]

/-- A voltage of the reference or above is beyond the last code. -/
theorem le_scaled_ediv {k v r : Int} (hk : 0 ≤ k) (hr : 0 < r) (h : r ≤ v) : k ≤ k * v / r := by
  rw [Int.le_ediv_iff_mul_le hr]
  exact mul_le_mul_of_nonneg_left h hk

theorem scaled_ediv_le {k v r a : Int} (hk : 0 ≤ k) (hr : 0 < r) (h : v ≤ a * r) : k * v / r ≤ k * a := by
  refine Int.ediv_le_of_le_mul hr ?_
  rw [mul_assoc]
  exact mul_le_mul_of_nonneg_left h hk

end

/-- The codes of a conversion of the kind with ends `low` and `high`. -/
theorem codes_of_kind {c : Copy} {low high : Int} (hl : lowCode c = low) (hh : highCode c = high)
    (cal : Option Calibration) (x : Analog) :
    (high ≤ nominalCode c x → sampleCode cal c x = high) ∧ (nominalCode c x ≤ low → sampleCode cal c x = low) ∧
      (low < nominalCode c x → nominalCode c x < high →
        sampleCode cal c x = max low (min high (Config.calibrated cal (nominalCode c x)))) ∧
      low ≤ sampleCode cal c x ∧ sampleCode cal c x ≤ high ∧
      (isFullScale c (sampleCode cal c x) = true ↔ sampleCode cal c x = low ∨ sampleCode cal c x = high) := by
  subst hl hh
  obtain ⟨h1, h2⟩ := sampleCode_mem cal c x
  exact ⟨sampleCode_of_high, sampleCode_of_low, sampleCode_of_between, h1, h2, isFullScale_iff _⟩

/-- A single-ended conversion of the voltage `v`. -/
theorem codes_of_ground {c : Copy} (hg : c.neg = .ground) (cal : Option Calibration) {x : Analog} (hx : 0 < x.vref)
    {v : Int} (hv : posVoltage x c.pos = v) :
    nominalCode c x = (16384 * v) / (x.vref : Int) ∧
      ((x.vref : Int) ≤ v → sampleCode cal c x = 16383) ∧ (v ≤ 0 → sampleCode cal c x = 0) ∧
      (16383 ≤ nominalCode c x → sampleCode cal c x = 16383) ∧ (nominalCode c x ≤ 0 → sampleCode cal c x = 0) ∧
      (0 < nominalCode c x → nominalCode c x < 16383 →
        sampleCode cal c x = max 0 (min 16383 (Config.calibrated cal (nominalCode c x)))) ∧
      0 ≤ sampleCode cal c x ∧ sampleCode cal c x ≤ 16383 ∧
      (isFullScale c (sampleCode cal c x) = true ↔ sampleCode cal c x = 0 ∨ sampleCode cal c x = 16383) := by
  have hr : (0 : Int) < x.vref := by exact_mod_cast hx
  have hnom : nominalCode c x = (16384 * v) / (x.vref : Int) := by rw [nominalCode, hg, ← hv]
  obtain ⟨h1, h2, h3⟩ := codes_of_kind (low := 0) (high := 16383) (by rw [lowCode, hg]) (by rw [highCode, hg]) cal x
  refine ⟨hnom, fun h => h1 ?_, fun h => h2 ?_, h1, h2, h3⟩
  · have := le_scaled_ediv (k := 16384) (by decide) hr h
    omega
  · have := scaled_ediv_le (k := 16384) (v := v) (a := 0) (by decide) hr (by omega)
    omega

/-- A differential conversion of the amplified voltage `v`. -/
theorem codes_of_ain {c : Copy} {k n : Fin 16} (hp : c.pos = .ain k) (hn : c.neg = .ain n) (cal : Option Calibration)
    {x : Analog} (hx : 0 < x.vref) {v : Int} (hv : (gainFactor c.gain : Int) * (x.ain.get k - x.ain.get n) = v) :
    nominalCode c x = (8192 * v) / (x.vref : Int) ∧
      ((x.vref : Int) ≤ v → sampleCode cal c x = 8191) ∧ (v ≤ -(x.vref : Int) → sampleCode cal c x = -8192) ∧
      (8191 ≤ nominalCode c x → sampleCode cal c x = 8191) ∧ (nominalCode c x ≤ -8192 → sampleCode cal c x = -8192) ∧
      (-8192 < nominalCode c x → nominalCode c x < 8191 →
        sampleCode cal c x = max (-8192) (min 8191 (Config.calibrated cal (nominalCode c x)))) ∧
      -8192 ≤ sampleCode cal c x ∧ sampleCode cal c x ≤ 8191 ∧
      (isFullScale c (sampleCode cal c x) = true ↔ sampleCode cal c x = -8192 ∨ sampleCode cal c x = 8191) := by
  have hr : (0 : Int) < x.vref := by exact_mod_cast hx
  have hnom : nominalCode c x = (8192 * v) / (x.vref : Int) := by
    simp only [nominalCode, hn, hp, posVoltage, mul_assoc, hv]
  obtain ⟨h1, h2, h3⟩ := codes_of_kind (low := -8192) (high := 8191) (by rw [lowCode, hn]) (by rw [highCode, hn]) cal x
  refine ⟨hnom, fun h => h1 ?_, fun h => h2 ?_, h1, h2, h3⟩
  · have := le_scaled_ediv (k := 8192) (by decide) hr h
    omega
  · have := scaled_ediv_le (k := 8192) (v := v) (a := -1) (by decide) hr (by omega)
    omega

/-! ### The value of a conversion -/

/-- The average of codes, rounded down, is in their range. -/
theorem toInt_resultValue {low high sum : Int} {avg : Averaging} (hl : -8192 ≤ low) (hh : high ≤ 16383)
    (h1 : (avgCount avg : Int) * low ≤ sum) (h2 : sum ≤ (avgCount avg : Int) * high) :
    (resultValue sum avg).toInt = sum / (avgCount avg : Int) ∧ low ≤ sum / (avgCount avg : Int) ∧
      sum / (avgCount avg : Int) ≤ high := by
  have hpos : 0 < (avgCount avg : Int) := by cases avg <;> decide
  have hlow : low ≤ sum / (avgCount avg : Int) := (Int.le_ediv_iff_mul_le hpos).2 (by rwa [mul_comm])
  have hhigh : sum / (avgCount avg : Int) ≤ high := Int.ediv_le_of_le_mul hpos (by rwa [mul_comm])
  refine ⟨?_, hlow, hhigh⟩
  rw [resultValue, BitVec.toInt_ofInt]
  exact Int.bmod_eq_of_le (by norm_num; omega) (by norm_num; omega)

/-- Settles O36: the two kinds of conversion by their ends, and the value as a quotient in range. -/
theorem codesAndValue : Obligations.CodesAndValue := by
  refine ⟨fun cal c x hx => ⟨fun hg => ?single, fun k n hp hn => ?differential⟩, fun c codes hlen hcodes => ?value⟩
  case single => exact codes_of_ground hg cal hx (by cases c.pos <;> rfl)
  case differential => exact codes_of_ain hp hn cal hx (by cases c.gain <;> rfl)
  case value =>
    have hlow := List.card_nsmul_le_sum codes (lowCode c) fun x hx => (hcodes x hx).1
    have hhigh := List.sum_le_card_nsmul codes (highCode c) fun x hx => (hcodes x hx).2
    rw [hlen, nsmul_eq_mul] at hlow hhigh
    have hlo : -8192 ≤ lowCode c := by unfold lowCode; split <;> decide
    have hhi : highCode c ≤ 16383 := by unfold highCode; split <;> decide
    obtain ⟨hv, h1, h2⟩ := toInt_resultValue hlo hhi hlow hhigh
    have hpos : 0 < (avgCount c.avg : Int) := by cases c.avg <;> decide
    rw [hv]
    exact ⟨Int.mul_ediv_self_le hpos.ne', Int.lt_mul_ediv_self_add hpos |>.trans_eq (by ring), h1, h2⟩

end Sys2Proof.Machine
end

section
/-! Completions: the delivery of a result, the evaluation of the monitors, the decision on the chain, and the end of a
calibration. -/

namespace Sys2Proof.Machine

/-! ### The delivery of a result -/

theorem isCurrent_eq_true_iff (s : State) (c : Copy) :
    s.isCurrent c = true ↔ (s.entry c.entry).revision = c.revision := beq_iff_eq

theorem isCurrent_eq_decide (s : State) (c : Copy) :
    s.isCurrent c = decide ((s.entry c.entry).revision = c.revision) := rfl

/-- The record that a completion writes. -/
theorem resultRecord_eq (s : State) (c : Copy) (v : BitVec 16) (full : Bool) : s.resultRecord c v full =
    { value := v, sequence := (s.slotAt c.dest).sequence + 1, timestamp := s.timebase, source := c.entry,
      revision := c.revision, valid := true, overrange := full,
      overrun := decide ((s.entry c.entry).revision = c.revision) && (s.entry c.entry).overrunPending,
      retired := decide ((s.entry c.entry).revision ≠ c.revision) } := by
  rw [State.resultRecord, isCurrent_eq_decide, decide_not]

/-- The writing of a result, as one state. -/
theorem writeResult_eq (s : State) (c : Copy) (v : BitVec 16) (full : Bool) : s.writeResult c v full =
    (s.setSlot c.dest (s.resultRecord c v full)).setEntry c.entry
      { s.entry c.entry with overrunPending := !s.isCurrent c && (s.entry c.entry).overrunPending } := by
  rw [State.writeResult]
  cases s.isCurrent c with
  | true => rfl
  | false => exact (State.setEntry_entry (s.setSlot c.dest (s.resultRecord c v full)) c.entry).symm

theorem isCurrent_writeResult (s : State) (c : Copy) (v : BitVec 16) (full : Bool) :
    (s.writeResult c v full).isCurrent c = s.isCurrent c := by
  have h := entry_writeResult s c v full c.entry
  rw [Entry.SameButCounts] at h
  rw [State.isCurrent, h]
  rfl

theorem evaluateOne_of_unwatched {s : State} {m : MonId} {i : SlotId} {v : BitVec 16}
    (h : ¬((s.monitor m).state.inScope = true ∧ (s.monitor m).contents.slot = i)) : s.evaluateOne i v m = s := by
  rw [State.evaluateOne, if_neg]
  simpa using h

/-- Every monitor in a scope that watches the slot evaluates, in ascending index. -/
theorem evaluateAll_eq (s : State) (i : SlotId) (v : BitVec 16) : s.evaluateAll i v =
    (List.finRange 12).foldl (fun u m =>
      if (u.monitor m).state.inScope = true ∧ (u.monitor m).contents.slot = i then u.evaluateOne i v m else u) s := by
  rw [State.evaluateAll]
  congr 1
  funext u m
  split
  · rfl
  · rename_i h
    exact evaluateOne_of_unwatched h

/-- The three steps of R102. -/
theorem deliver_eq (s : State) (c : Copy) (v : BitVec 16) (full : Bool) : s.deliver c v full =
    State.evaluateAll (if s.isCurrent c = true ∧ c.notice = true then
        (s.writeResult c v full).raise (.completion c.entry c.dest ((s.slotAt c.dest).sequence + 1) v)
          (s.noticeSet (s.entry c.entry).state (·.completion))
      else s.writeResult c v full) c.dest v := by
  have hst : ((s.writeResult c v full).entry c.entry).state = (s.entry c.entry).state := by
    have h := entry_writeResult s c v full c.entry
    rw [Entry.SameButCounts] at h
    rw [h]
  have hns : ∀ st, (s.writeResult c v full).noticeSet st (·.completion) = s.noticeSet st (·.completion) := by
    intro st
    rw [writeResult_eq]
    rfl
  simp only [State.deliver, State.completionNotice, isCurrent_writeResult, hst, hns, Bool.and_eq_true]
  rfl

/-! ### One evaluation -/

section
variable {s : State} {m : MonId} {i : SlotId} {v : BitVec 16} (hs : (s.monitor m).state.inScope = true)
  (hi : (s.monitor m).contents.slot = i)
include hs hi

theorem evaluateOne_of_no_crossing (h : (evaluate (s.monitor m) v.toInt).2 = none) :
    s.evaluateOne i v m = s.setMonitor m (evaluate (s.monitor m) v.toInt).1 := by
  rw [State.evaluateOne, if_pos (by simp [hs, hi])]
  simp only [h]

theorem evaluateOne_of_crossing {old new : Zone} (h : (evaluate (s.monitor m) v.toInt).2 = some (old, new)) :
    s.evaluateOne i v m = (s.setMonitor m (evaluate (s.monitor m) v.toInt).1).crossing m old new v := by
  rw [State.evaluateOne, if_pos (by simp [hs, hi])]
  simp only [h]

end

/-- The crossing that an evaluation accepts, by the monitor's contents, which it leaves. -/
theorem crossing_setMonitor (s : State) (m : MonId) (old new : Zone) (v : BitVec 16) (x : Int) :
    (s.setMonitor m (evaluate (s.monitor m) x).1).crossing m old new v =
      if crossingMatches (s.monitor m).contents.edge old new = true then
        match (s.monitor m).contents.action with
        | .notify => (s.setMonitor m (evaluate (s.monitor m) x).1).raise (.monitor m (.zone new) v)
            (s.noticeSet (s.monitor m).state (·.monitor))
        | .notifyAndTrigger e => (((s.setMonitor m (evaluate (s.monitor m) x).1).raise (.monitor m (.zone new) v)
            (s.noticeSet (s.monitor m).state (·.monitor))).trigger e (.monitor m)).1
      else s.setMonitor m (evaluate (s.monitor m) x).1 := by
  have hm : (s.setMonitor m (evaluate (s.monitor m) x).1).monitor m = (evaluate (s.monitor m) x).1 := by
    rw [State.monitor_setMonitor, if_pos rfl]
  have hf := evaluate_frame (s.monitor m) x
  have hc : (evaluate (s.monitor m) x).1.contents = (s.monitor m).contents := by rw [hf]
  have hst : (evaluate (s.monitor m) x).1.state = (s.monitor m).state := by rw [hf]
  rw [State.crossing, hm, hc, hst]
  rfl

/-! ### The end of the converter's work -/

theorem workEnds_of_draining {s : State} {r : ClockSetting} (h : s.clock.phase = .draining r) :
    s.workEnds = s.endDraining r := by
  rw [State.workEnds, h]

theorem workEnds_of_no_switch {s : State} (h : s.clock.phase = .none) :
    s.workEnds = ({ s with converter := .idle, work := none } : State).consult := by
  rw [State.workEnds, h]

section
variable {s : State} {c : Copy}

theorem decideChain_of_no_link (h : c.link = none) : s.decideChain c = s.workEnds := by
  rw [State.decideChain, h]

variable {l : EntryId}

theorem chainBroken_of_scope (hl : (s.entry l).state = .scoped c.scope) : s.chainBroken l =
    s.raise (.discarded l .chainBroken) (s.noticeSet (.scoped c.scope) (·.loss)) := by
  rw [State.chainBroken, hl]

theorem decideChain_of_stale (h : c.link = some l) (hr : (s.entry c.entry).revision ≠ c.revision) : s.decideChain c =
    (if (s.entry l).state = .scoped c.scope then s.chainBroken l else s).workEnds := by
  have hc : s.isCurrent c = false := by
    rw [← Bool.not_eq_true, isCurrent_eq_true_iff]
    exact hr
  simp only [State.decideChain, h, hc, Bool.not_false, if_true]

theorem decideChain_of_current (h : c.link = some l) (hr : (s.entry c.entry).revision = c.revision) : s.decideChain c =
    if (s.entry c.entry).contents.link = some l ∧ (s.entry l).state = .scoped c.scope then
      if 8 ≤ c.position then (s.chainBroken l).workEnds else s.begin l c.scope (c.position + 1)
    else s.workEnds := by
  have hc : s.isCurrent c = true := (isCurrent_eq_true_iff ..).2 hr
  simp only [State.decideChain, h, hc, Bool.not_true, Bool.false_eq_true, if_false]

end

/-- Settles O38: the branches of the decision, with the broken chain's notice set that of the scope. -/
theorem chainDecision : Obligations.ChainDecision := by
  refine ⟨fun s => ⟨fun r => workEnds_of_draining, workEnds_of_no_switch⟩, fun s c => ⟨decideChain_of_no_link, fun l hl =>
    ⟨fun hr hlink hsc => ⟨fun hp => ?continues, fun hp => ?ninth⟩, fun hr => ⟨fun hsc => ?stale, fun hsc => ?gone⟩,
      fun hr hno => ?ends⟩⟩⟩
  case continues =>
    rw [decideChain_of_current hl hr, if_pos ⟨hlink, hsc⟩, if_neg (by omega)]
    rfl
  case ninth => rw [decideChain_of_current hl hr, if_pos ⟨hlink, hsc⟩, if_pos hp, chainBroken_of_scope hsc]
  case stale => rw [decideChain_of_stale hl hr, if_pos hsc, chainBroken_of_scope hsc]
  case gone => rw [decideChain_of_stale hl hr, if_neg hsc]
  case ends =>
    rw [decideChain_of_current hl hr, if_neg]
    rintro ⟨h1, h2⟩
    exact hno.elim (fun h => h h1) fun h => h h2

/-! ### COMPLETION -/

/-- Settles O37: the completion is a delivery and a decision; the chain's decision reaches neither slots nor entries. -/
theorem completionCommand : Obligations.CompletionCommand := by
  refine ⟨fun s c taken sum full x hr hw hc hx hn =>
      ⟨s.complete c (sum + sampleCode s.calibration c x) (full || isFullScale c (sampleCode s.calibration c x)), ?event,
      ?slot, fun i hi => ?slots, fun e => ?entry⟩,
    fun s c taken sum full x hr hw hc hx hn => ?steps, fun s c v overrange => ?deliver,
    fun s m i v hs hi => ⟨evaluateOne_of_no_crossing hs hi, fun old new h => ⟨fun hno => ?unmatched, fun hm ha => ?notifies,
      fun e hm ha => ?triggers⟩⟩⟩
  case event => rw [exec_completion, unlessHeld_released hr, completionEvent_of_due hw hc hx (by omega)]
  case slot =>
    rw [State.complete, (Switches.decideChain ..).slotAt, State.slotAt, slots_deliver, Table.get_set, if_pos rfl,
      resultRecord_eq]
  case slots =>
    rw [State.complete, (Switches.decideChain ..).slotAt, State.slotAt, slots_deliver, Table.get_set, if_neg hi]
    rfl
  case entry =>
    rw [State.complete, (Switches.decideChain ..).entry]
    exact entry_deliver ..
  case steps =>
    rw [exec_completion, unlessHeld_released hr, completionEvent_of_due hw hc hx (by omega)]
    rfl
  case deliver =>
    rw [deliver_eq, evaluateAll_eq, writeResult_eq, State.resultRecord]
    rfl
  case unmatched =>
    rw [evaluateOne_of_crossing hs hi h, crossing_setMonitor, if_neg (mt (crossingMatches_iff ..).1 hno)]
  case notifies =>
    rw [evaluateOne_of_crossing hs hi h, crossing_setMonitor, if_pos ((crossingMatches_iff ..).2 hm)]
    simp only [ha]
  case triggers =>
    rw [evaluateOne_of_crossing hs hi h, crossing_setMonitor, if_pos ((crossingMatches_iff ..).2 hm)]
    simp only [ha]

/-! ### CALIBRATION_END -/

/-- Settles O39: the end of the work in the state with the new calibration. -/
theorem calibrationEndCommand : Obligations.CalibrationEndCommand := by
  intro s found hr hq hw hc
  have hend : exec (.calibrationEnd found) s = .next ({ s with calibration := some found } : State).workEnds := by
    rw [exec_calibrationEnd, unlessHeld_released hr, calibrationEndEvent_of_due hw hc]
  refine ⟨fun hp hn => ?empty, fun hp k hk => ?waiting, fun r hp => ?draining⟩
  case empty =>
    rw [hend, workEnds_of_no_switch (s := { s with calibration := some found }) hp]
    exact congrArg _ (consult_of_empty (s := { s with calibration := some found, converter := .idle, work := none }) hn)
  case waiting =>
    obtain ⟨sc, hsc⟩ : ∃ sc, (s.entry k.entry).state = .scoped sc := by
      have := hq.scope k (choose_mem hk)
      rcases he : (s.entry k.entry).state with _ | _ | sc
      · rw [he] at this
        cases this
      · rw [he] at this
        cases this
      · exact ⟨sc, rfl⟩
    refine ⟨sc, hsc, ?_⟩
    rw [hend, workEnds_of_no_switch (s := { s with calibration := some found }) hp]
    exact congrArg _ (consult_of_choice
      (s := { s with calibration := some found, converter := .idle, work := none }) rfl hk hsc)
  case draining => rw [hend, workEnds_of_draining (s := { s with calibration := some found }) hp]

end Sys2Proof.Machine
end

section
/-! The Sampling Clock: the beginning and the ends of a clock switch, LOCK_REPORT, QUALIFICATION and
ACQUISITION_DEADLINE_EXPIRY. -/

namespace Sys2Proof.Machine

/-! ### The ends of a switch -/

theorem succeed_eq (c : Clock) (r : ClockSetting) : c.succeed r =
    ⟨r, .none, none, if r.mode = .external then c.measured else none,
      if r.mode ≠ .multiplied ∧ c.loop = .locked then .stopped else c.loop, none⟩ := by
  rw [Clock.succeed, loopAfter_eq]

theorem switchDone_eq (u : State) (r : ClockSetting) : u.switchDone r = { u with
    clock := u.clock.succeed r, converter := .calibrating, work := some (4096 * clockPeriod r)
    ports := (u.switchDone r).ports } := rfl

theorem port_switchDone (u : State) (r : ClockSetting) (q : Port) : (u.switchDone r).port q =
    (u.port q).receive (u.port q).subs.clock (.clock r .done) u.timebase :=
  State.port_raise_subscribed _ u _ _ q

/-- The state in which a failed switch consults the Arbiter. -/
def State.switchDropped (s : State) : State :=
  { s with clock := { s.clock with phase := .none, deadline := none, run := none }, converter := .idle, work := none }

theorem switchFailed_eq (s : State) (r : ClockSetting) (cause : SwitchCause) : s.switchFailed r cause =
    s.switchDropped.consult.raise (.clock r (.failed cause)) (s.subscribed (·.clock)) := rfl

/-- With no ticket waiting, a failed switch leaves the converter IDLE. -/
theorem switchFailed_of_empty {s : State} (h : s.queue = []) (r : ClockSetting) (cause : SwitchCause) :
    s.switchFailed r cause = s.switchDropped.raise (.clock r (.failed cause)) (s.subscribed (·.clock)) := by
  rw [switchFailed_eq, consult_of_empty (s := s.switchDropped) h]

/-! ### The beginning of a switch -/

theorem startSwitch_self (s : State) : s.startSwitch s.clock.active = s := if_pos rfl

section
variable {s : State} {r : ClockSetting} (hr : r ≠ s.clock.active)
include hr

theorem startSwitch_of_busy (hc : s.converter ≠ .idle) :
    s.startSwitch r = { s with clock := { s.clock with phase := .draining r } } := by
  rw [State.startSwitch, if_neg hr]
  cases h : s.converter with
  | idle => exact absurd h hc
  | _ => rfl

theorem startSwitch_of_idle (hc : s.converter = .idle) :
    s.startSwitch r = ({ s with clock := { s.clock with phase := .draining r } } : State).endDraining r := by
  rw [State.startSwitch, if_neg hr, hc]

end

/-- The state in which acquisition begins. -/
def State.acquiring (s : State) (r : ClockSetting) : State :=
  { s with converter := .held, work := none, clock := { s.clock with phase := .acquiring r } }

theorem endDraining_eq (s : State) (r : ClockSetting) : s.endDraining r = (s.acquiring r).acquire r := rfl

section
variable {s : State} {r : ClockSetting}

theorem acquire_of_same_mode (h : r.mode = s.clock.active.mode) (he : r.mode ≠ .external) :
    s.acquire r = s.switchDone r := by
  rw [State.acquire, if_pos h, if_neg fun hc => he hc.1]

theorem acquire_of_external (h : r.mode = s.clock.active.mode) (he : r.mode = .external) {edges : Nat}
    (hm : s.clock.measured = some edges) :
    s.acquire r = if 16 * 256 * dividerCount r.divider < edges then s.switchFailed r .tooFast else s.switchDone r := by
  rw [State.acquire, if_pos h, Clock.measuredTooFast, hm]
  simp [he, tooFast]

theorem acquire_internal (h : s.clock.active.mode ≠ .internal) (hr : r.mode = .internal) :
    s.acquire r = s.switchDone r := by
  rw [State.acquire, if_neg (by rw [hr]; exact fun hc => h hc.symm), hr]

theorem acquire_multiplied (h : s.clock.active.mode ≠ .multiplied) (hr : r.mode = .multiplied) :
    s.acquire r = { s with clock := { s.clock with deadline := some (s.timebase + 500), loop := .starting } } := by
  rw [State.acquire, if_neg (by rw [hr]; exact fun hc => h hc.symm), hr]
  rfl

theorem acquire_external (h : s.clock.active.mode ≠ .external) (hr : r.mode = .external) :
    s.acquire r = { s with clock := { s.clock with deadline := some (s.timebase + 2000), run := none } } := by
  rw [State.acquire, if_neg (by rw [hr]; exact fun hc => h hc.symm), hr]
  rfl

end

/-- Settles O40: the branches of the beginning, of the acquisition and of the two ends. -/
theorem clockSwitchBeginsAndAcquires : Obligations.ClockSwitchBeginsAndAcquires := by
  refine ⟨fun s r => ⟨fun hr => ?same, startSwitch_of_busy, startSwitch_of_idle⟩,
    fun s r => ⟨acquire_of_same_mode (s := s.acquiring r), fun he ha edges hm => ⟨fun hf => ?tooFast, fun hf => ?fits⟩,
      fun hr h => acquire_internal (s := s.acquiring r) h hr, fun hr h => acquire_multiplied (s := s.acquiring r) h hr,
      fun hr h => acquire_external (s := s.acquiring r) h hr⟩,
    fun u r => ⟨?done, port_switchDone u r⟩, switchFailed_eq⟩
  case same =>
    subst hr
    exact startSwitch_self s
  case tooFast =>
    exact (acquire_of_external (s := s.acquiring r) (he.trans ha.symm) he hm).trans (if_pos hf)
  case fits =>
    exact (acquire_of_external (s := s.acquiring r) (he.trans ha.symm) he hm).trans (if_neg (Nat.not_lt.2 hf))
  case done =>
    have h := switchDone_eq u r
    rwa [succeed_eq] at h

/-! ### LOCK_REPORT -/

theorem exec_lockReport (s : State) : exec .lockReport s = .next (s.unlessHeld lockReportEvent) := rfl

/-- The loop has locked while it was acquired. -/
def State.loopLocked (s : State) : State := { s with clock := { s.clock with loop := .locked, deadline := none } }

theorem lockReportEvent_of_starting {s : State} {r : ClockSetting} (hp : s.clock.phase = .acquiring r)
    (hl : s.clock.loop = .starting) : lockReportEvent s = s.loopLocked.switchDone r := by
  rw [lockReportEvent, hp, hl]
  rfl

theorem lockReportEvent_of_not_starting {s : State}
    (h : s.clock.loop ≠ .starting ∨ ∀ r, s.clock.phase ≠ .acquiring r) : lockReportEvent s = s := by
  unfold lockReportEvent
  split
  · rename_i r hp hl
    exact h.elim (absurd hl) fun h => absurd hp (h r)
  all_goals rfl

/-- Settles O41: the successful end of the switch from the state in which the loop has locked. -/
theorem lockReportCommand : Obligations.LockReportCommand := by
  intro s hr
  refine ⟨fun r hp hm hl => ⟨s.loopLocked.switchDone r, ?reported, ?state, port_switchDone _ r⟩, fun h => ?other⟩
  case reported => rw [exec_lockReport, unlessHeld_released hr, lockReportEvent_of_starting hp hl]
  case state =>
    refine (switchDone_eq _ r).trans ?_
    rw [succeed_eq, hm]
    rfl
  case other => rw [exec_lockReport, unlessHeld_released hr, lockReportEvent_of_not_starting h]

/-! ### QUALIFICATION -/

theorem exec_qualification (edges : Nat) (s : State) :
    exec (.qualification edges) s = .next (s.unlessHeld (qualificationEvent edges)) := rfl

theorem qualificationEvent_of_lasted {s : State} {r : ClockSetting} {x : ClkinRun} (hp : s.clock.phase = .acquiring r)
    (hm : r.mode = .external) (hx : s.clock.run = some x) (hl : x.length = 20480) :
    qualificationEvent x.edges s = s.qualify r x.edges := by
  rw [qualificationEvent, hp, hx]
  exact if_pos ⟨hm, beq_iff_eq.2 hl, rfl⟩

theorem qualificationEvent_of_no_run {s : State} {edges : Nat}
    (h : ∀ r x, s.clock.phase = .acquiring r → r.mode = .external → s.clock.run = some x →
      x.length ≠ 20480 ∨ x.edges ≠ edges) : qualificationEvent edges s = s := by
  unfold qualificationEvent
  split
  · rename_i r x hp hx
    refine if_neg fun ⟨hm, hl, he⟩ => ?_
    exact (h r x hp hm hx).elim (fun hn => hn (beq_iff_eq.1 hl)) fun hn => hn he
  all_goals rfl

theorem qualify_of_fast {s : State} {r : ClockSetting} {edges : Nat} (h : 4096 * dividerCount r.divider < edges) :
    s.qualify r edges = s.switchFailed r .tooFast := by
  rw [State.qualify, if_pos]
  exact decide_eq_true h

/-- The frequency of a run is held. -/
def State.measured (s : State) (edges : Nat) : State :=
  { s with clock := { s.clock with measured := some edges, deadline := none } }

theorem qualify_of_fits {s : State} {r : ClockSetting} {edges : Nat} (h : edges ≤ 4096 * dividerCount r.divider) :
    s.qualify r edges = (s.measured edges).switchDone r := by
  rw [State.qualify, if_neg]
  · rfl
  rw [tooFast, decide_eq_true_iff]
  exact Nat.not_lt.2 h

/-- The clock after EXTERNAL is acquired. -/
theorem succeed_of_external {c : Clock} {r : ClockSetting} (hm : r.mode = .external) (hl : c.loop ≠ .starting) :
    c.succeed r = ⟨r, .none, none, c.measured, .stopped, none⟩ := by
  rw [succeed_eq, hm]
  rcases h : c.loop with _ | _ | _
  · rfl
  · exact absurd h hl
  · rfl

theorem clockPeriod_of_external {r : ClockSetting} (hm : r.mode = .external) : clockPeriod r = dividerCount r.divider := by
  rw [clockPeriod, hm]

/-- Settles O42: by the law of the clock the run is in order and the loop is not starting. -/
theorem qualificationCommand : Obligations.QualificationCommand := by
  refine ⟨fun s r x hr hl hp hm hx hlen => ?run, fun s edges hr h => ?none⟩
  case none => rw [exec_qualification, unlessHeld_released hr, qualificationEvent_of_no_run h]
  case run =>
    have hexec : exec (.qualification x.edges) s = .next (s.qualify r x.edges) := by
      rw [exec_qualification, unlessHeld_released hr, qualificationEvent_of_lasted hp hm hx hlen]
    have hloop : s.clock.loop ≠ .starting := by
      intro h
      obtain ⟨r', hp', hm'⟩ := hl.starting.1 h
      rw [hp] at hp'
      cases hp'
      rw [hm] at hm'
      cases hm'
    refine ⟨(hl.run x hx).edges_of_lasted hlen, fun hf =>
        ⟨(s.measured x.edges).switchDone r, ?fits, ?state, port_switchDone _ r⟩,
      fun hf hq => ⟨s.switchDropped.raise (.clock r (.failed .tooFast)) (s.subscribed (·.clock)), ?empty, rfl,
        State.port_raise_subscribed s.switchDropped s _ _⟩, fun hf => ⟨?failed, fun k sc hk hsc => ?waiting⟩⟩
    case fits => rw [hexec, qualify_of_fits hf]
    case state =>
      refine (switchDone_eq _ r).trans ?_
      rw [succeed_of_external (c := (s.measured x.edges).clock) hm hloop, clockPeriod_of_external hm]
      rfl
    case empty => rw [hexec, qualify_of_fast hf, switchFailed_of_empty hq]
    case failed =>
      rw [hexec, qualify_of_fast hf]
      rfl
    case waiting => exact consult_of_choice (s := s.switchDropped) rfl hk hsc

/-! ### ACQUISITION_DEADLINE_EXPIRY -/

theorem exec_acquisitionDeadlineExpiry (s : State) :
    exec .acquisitionDeadlineExpiry s = .next (s.unlessHeld acquisitionDeadlineEvent) := rfl

theorem acquisitionDeadlineEvent_of_due {s : State} {r : ClockSetting} (hp : s.clock.phase = .acquiring r)
    (hd : s.clock.deadline = some s.timebase) : acquisitionDeadlineEvent s = s.acquisitionFails r := by
  rw [acquisitionDeadlineEvent, hp]
  exact if_pos hd

/-- Settles O43: the failed end, for each of the two modes that can be acquired. -/
theorem acquisitionDeadlineCommand : Obligations.AcquisitionDeadlineCommand := by
  intro s r hr hp hd hm
  rw [exec_acquisitionDeadlineExpiry, unlessHeld_released hr, acquisitionDeadlineEvent_of_due hp hd, State.acquisitionFails]
  rcases h : r.mode with _ | _ | _
  · exact absurd h hm
  · rfl
  · rfl

end Sys2Proof.Machine
end

section
/-! Snapshot reads of the Result Store, and the commands that change limit monitors. -/

namespace Sys2Proof.Machine

/-! ### READ_SLOTS and CONTINUE -/

theorem slotFlags_eq (r : SlotRecord) : slotFlags r =
    BitVec.ofNat 8 ((if r.valid = true then 1 else 0) + (if r.overrange = true then 2 else 0) +
      (if r.overrun = true then 4 else 0) + (if r.retired = true then 8 else 0)) := by
  obtain ⟨_, _, _, _, _, valid, overrange, overrun, retired⟩ := r
  cases valid <;> cases overrange <;> cases overrun <;> cases retired <;> rfl

theorem slotBytes_eq (r : SlotRecord) : slotBytes r =
    be16 r.value ++ be16 r.sequence ++ be32 r.timestamp ++ [BitVec.ofNat 8 r.source.val, r.revision,
      BitVec.ofNat 8 ((if r.valid = true then 1 else 0) + (if r.overrange = true then 2 else 0) +
        (if r.overrun = true then 4 else 0) + (if r.retired = true then 8 else 0))] := by
  rw [slotBytes, slotFlags_eq]
  rfl

/-- The answer of a chunk: the index of its first record, the number of records that stay, and its records. -/
theorem chunkAnswer_cons (r : SlotId × SlotRecord) (rest : List (SlotId × SlotRecord)) : chunkAnswer (r :: rest) =
    ⟨.ok, [BitVec.ofNat 8 r.1.val, BitVec.ofNat 8 ((r :: rest).length - 4)] ++
      ((r :: rest).take 4).flatMap fun x => slotBytes x.2⟩ := by
  rw [chunkAnswer, List.length_drop]
  rfl

/-- A capture holds the slots as they stand. -/
theorem snd_of_mem_capture {s : State} {first count : Nat} {r : SlotId × SlotRecord} (h : r ∈ s.capture first count) :
    r.2 = s.slotAt r.1 := by
  obtain ⟨i, -, rfl⟩ := List.mem_map.1 h
  rfl

/-- The answer of a capture that is not empty. -/
theorem chunkAnswer_capture (s : State) {first count : Byte} (h1 : 1 ≤ count.toNat)
    (h : first.toNat + count.toNat ≤ 64) : chunkAnswer (s.capture first.toNat count.toNat) =
      ⟨.ok, [first, BitVec.ofNat 8 (count.toNat - 4)] ++
        ((s.capture first.toNat count.toNat).take 4).flatMap fun r => slotBytes r.2⟩ := by
  have hidx := capture_indices s h
  have hlen := length_capture s h
  rcases hc : s.capture first.toNat count.toNat with _ | ⟨r, rest⟩
  · rw [hc, List.length_nil] at hlen
    omega
  · obtain ⟨n, hn⟩ : ∃ n, count.toNat = n + 1 := ⟨count.toNat - 1, by omega⟩
    have hr : r.1.val = first.toNat := by
      rw [hc, hn, List.range_succ_eq_map, List.map_cons, List.map_cons] at hidx
      exact (List.cons.inj hidx).1
    have hb : BitVec.ofNat 8 r.1.val = first := by rw [hr]; exact BitVec.ofNat_toNat ..|>.trans (BitVec.setWidth_eq _)
    rw [chunkAnswer_cons, hb, ← hc, hlen]

theorem exec_readSlots (p : Port) (tag first count : Byte) (s : State) :
    exec (.readSlots p tag first count) s = .next (s.answerAttached p tag 0x20 (readSlotsBlock p first count)) := rfl

theorem exec_continueSlots (p : Port) (tag : Byte) (s : State) :
    exec (.continueSlots p tag) s = .next (s.answerAttached p tag 0x21 (continueBlock p)) := rfl

/-- The port whose buffer takes `captured` but for the first chunk. -/
def PortState.capturing (x : PortState) (captured : List (SlotId × SlotRecord)) : PortState :=
  { x with
    snapshot := captured.drop 4
    abandons := if x.snapshot = [] then x.abandons else satInc x.abandons }

theorem readSlotsBlock_of_bad {p : Port} {first count : Byte} {s : State}
    (h : ¬(1 ≤ count.toNat ∧ count.toNat ≤ 16 ∧ first.toNat ≤ 63 ∧ first.toNat + count.toNat - 1 ≤ 63)) :
    readSlotsBlock p first count s = (s, ⟨.invalid, []⟩) := by
  rw [readSlotsBlock, if_neg h]
  rfl

theorem readSlotsBlock_of_good {p : Port} {first count : Byte} {s : State} (h1 : 1 ≤ count.toNat)
    (h16 : count.toNat ≤ 16) (h : first.toNat + count.toNat ≤ 64) : readSlotsBlock p first count s =
      (s.setPort p ((s.port p).capturing (s.capture first.toNat count.toNat)),
        ⟨.ok, [first, BitVec.ofNat 8 (count.toNat - 4)] ++
          ((s.capture first.toNat count.toNat).take 4).flatMap fun r => slotBytes r.2⟩) := by
  rw [readSlotsBlock, if_pos ⟨h1, h16, by omega, by omega⟩]
  simp only [chunkAnswer_capture s h1 h, PortState.capturing, List.isEmpty_iff]

theorem continueBlock_of_empty {p : Port} {s : State} (h : (s.port p).snapshot = []) :
    continueBlock p s = (s, ⟨.noData, []⟩) := by
  rw [continueBlock, h]
  rfl

theorem continueBlock_of_cons {p : Port} {s : State} {r : SlotId × SlotRecord} {rest : List (SlotId × SlotRecord)}
    (h : (s.port p).snapshot = r :: rest) : continueBlock p s =
      (s.setPort p { s.port p with snapshot := (r :: rest).drop 4 }, chunkAnswer (r :: rest)) := by
  rw [continueBlock, h]

/-- Settles O44: a capture of one slot or more begins at the first index. -/
theorem snapshotCommands : Obligations.SnapshotCommands := by
  refine ⟨slotBytes_eq, fun s p tag first count hs => ⟨fun hbad => ?invalid, fun h1 h16 h =>
      ⟨s.capture first.toNat count.toNat, capture_indices s h, fun r => snd_of_mem_capture, ?captured⟩⟩,
    fun s p tag hs => ⟨fun hn => ?noData, fun r rest hr => ?continued⟩⟩
  case invalid => rw [exec_readSlots, answerAttached_unchanged hs (readSlotsBlock_of_bad hbad)]
  case captured =>
    have hb := readSlotsBlock_of_good (p := p) (s := s.endFrame p) h1 h16 h
    rw [State.capture_endFrame] at hb
    rw [exec_readSlots, answerAttached_setPort (f := (·.capturing (s.capture first.toNat count.toNat))) hs hb]
    rfl
  case noData =>
    have hb : continueBlock p (s.endFrame p) = _ := continueBlock_of_empty (by rw [port_endFrame_self]; exact hn)
    rw [exec_continueSlots, answerAttached_unchanged hs hb]
  case continued =>
    have hb := continueBlock_of_cons (s := s.endFrame p) (p := p) (by rw [port_endFrame_self]; exact hr)
    rw [chunkAnswer_cons] at hb
    rw [exec_continueSlots, answerAttached_setPort (f := fun x => { x with snapshot := (r :: rest).drop 4 }) hs hb]
    rfl

/-! ### The checks of monitor contents -/

theorem targetInScope_iff {s : State} {sc : Scope} {a : MonitorAction} : s.targetInScope sc a = true ↔
    ∀ e, a = .notifyAndTrigger e → (s.entry e).state = .scoped sc := by
  cases a <;> simp [State.targetInScope]

section
variable {s : State} {sc : Scope} {raw : RawMonitor}

theorem checkMonitor_of_unread (h : readMonitorContents raw = none) : s.checkMonitor sc raw = none := by
  rw [State.checkMonitor, h]

variable {c : MonitorContents} (h : readMonitorContents raw = some c)
include h

theorem checkMonitor_of_read : s.checkMonitor sc raw =
    if c.low.toInt ≤ c.high.toInt ∧ s.targetInScope sc c.action = true then some c else none := by
  rw [State.checkMonitor, h]

theorem checkMonitor_of_ordered (hl : c.low.toInt ≤ c.high.toInt)
    (ht : ∀ e, c.action = .notifyAndTrigger e → (s.entry e).state = .scoped sc) : s.checkMonitor sc raw = some c := by
  rw [checkMonitor_of_read h, if_pos ⟨hl, targetInScope_iff.2 ht⟩]

theorem checkMonitor_of_bad (hbad : c.high.toInt < c.low.toInt ∨
    ∃ e, c.action = .notifyAndTrigger e ∧ (s.entry e).state ≠ .scoped sc) : s.checkMonitor sc raw = none := by
  rw [checkMonitor_of_read h, if_neg]
  rintro ⟨hl, ht⟩
  rcases hbad with hb | ⟨e, ha, he⟩
  · omega
  · exact he (targetInScope_iff.1 ht e ha)

end

/-! ### The blocks of the monitor commands -/

section
variable {s : State} {p : Port} {raw : RawMonitor}

theorem claimMonitorBlock_of_le {m : Byte} (h : 12 ≤ m.toNat) : claimMonitorBlock p m s = (s, ⟨.invalid, []⟩) := by
  simp [claimMonitorBlock, indexOf_eq_none h, Answer.bare]

theorem writeMonitorBlock_of_le {m : Byte} (h : 12 ≤ m.toNat) : writeMonitorBlock p m raw s = (s, ⟨.invalid, []⟩) := by
  simp [writeMonitorBlock, indexOf_eq_none h, Answer.bare]

theorem releaseMonitorBlock_of_le {m : Byte} (h : 12 ≤ m.toNat) : releaseMonitorBlock p m s = (s, ⟨.invalid, []⟩) := by
  simp [releaseMonitorBlock, indexOf_eq_none h, Answer.bare]

variable {m : MonId}

theorem claimMonitorBlock_of_not_free (h : (s.monitor m).state ≠ .free) :
    claimMonitorBlock p (BitVec.ofNat 8 m.val) s = (s, ⟨.busy, []⟩) := by
  simp [claimMonitorBlock, h, Answer.bare]

theorem claimMonitorBlock_of_quota (h : (s.monitor m).state = .free) (hq : 6 ≤ s.monitorCount p) :
    claimMonitorBlock p (BitVec.ofNat 8 m.val) s = (s, ⟨.quota, []⟩) := by
  simp [claimMonitorBlock, h, hq, Answer.bare]

theorem claimMonitorBlock_of_room (h : (s.monitor m).state = .free) (hq : s.monitorCount p < 6) :
    claimMonitorBlock p (BitVec.ofNat 8 m.val) s =
      (s.setMonitor m ((s.monitor m).install (.ownedBy p) (s.monitor m).contents 0),
        ⟨.ok, [(s.monitor m).revision + 1]⟩) := by
  simp [claimMonitorBlock, h, Nat.not_le.2 hq]

theorem writeMonitorBlock_of_not_owned (h : (s.monitor m).state ≠ .ownedBy p) :
    writeMonitorBlock p (BitVec.ofNat 8 m.val) raw s = (s, ⟨.denied, []⟩) := by
  simp [writeMonitorBlock, h, Answer.bare]

theorem writeMonitorBlock_of_bad (h : (s.monitor m).state = .ownedBy p) (hc : s.checkMonitor (.own p) raw = none) :
    writeMonitorBlock p (BitVec.ofNat 8 m.val) raw s = (s, ⟨.invalid, []⟩) := by
  simp [writeMonitorBlock, h, hc, Answer.bare]

theorem writeMonitorBlock_of_good (h : (s.monitor m).state = .ownedBy p) {c : MonitorContents}
    (hc : s.checkMonitor (.own p) raw = some c) : writeMonitorBlock p (BitVec.ofNat 8 m.val) raw s =
      (s.setMonitor m ((s.monitor m).install (.ownedBy p) c (s.monitor m).crossings),
        ⟨.ok, [(s.monitor m).revision + 1]⟩) := by
  simp [writeMonitorBlock, h, hc]

theorem releaseMonitorBlock_of_not_owned (h : (s.monitor m).state ≠ .ownedBy p) :
    releaseMonitorBlock p (BitVec.ofNat 8 m.val) s = (s, ⟨.denied, []⟩) := by
  simp [releaseMonitorBlock, h, Answer.bare]

theorem releaseMonitorBlock_of_owned (h : (s.monitor m).state = .ownedBy p) :
    releaseMonitorBlock p (BitVec.ofNat 8 m.val) s =
      (s.setMonitor m (s.monitor m).release, ⟨.ok, [(s.monitor m).revision + 1]⟩) := by
  simp [releaseMonitorBlock, h]

end

theorem exec_claimMonitor (p : Port) (tag m : Byte) (s : State) :
    exec (.claimMonitor p tag m) s = .next (s.answerAttached p tag 0x28 (claimMonitorBlock p m)) := rfl

theorem exec_writeMonitor (p : Port) (tag m : Byte) (raw : RawMonitor) (s : State) :
    exec (.writeMonitor p tag m raw) s = .next (s.answerAttached p tag 0x29 (writeMonitorBlock p m raw)) := rfl

theorem exec_releaseMonitor (p : Port) (tag m : Byte) (s : State) :
    exec (.releaseMonitor p tag m) s = .next (s.answerAttached p tag 0x2B (releaseMonitorBlock p m)) := rfl

/-- A served command whose block writes one monitor. -/
theorem answerAttached_setMonitor {s : State} {p : Port} (h : Serves s p) {tag code : Byte}
    {block : State → State × Answer} {m : MonId} {x : Monitor} {st : Status} {data : List Byte}
    (hb : block (s.endFrame p) = ((s.endFrame p).setMonitor m x, ⟨st, data⟩)) :
    s.answerAttached p tag code block = (s.setMonitor m x).answered p ⟨tag, code, st, data⟩ :=
  answerAttached_of_endFrame (u := s.setMonitor m x) h hb

/-- Settles O45: each refusal is a block that changes nothing, and each change writes one monitor. -/
theorem changeMonitorCommands : Obligations.ChangeMonitorCommands := by
  refine ⟨fun s p tag m hs => ⟨fun hf hq => ?claimed, fun raw c ho hc hl ht => ?written, fun ho => ?released⟩,
    fun s p tag raw hs => ⟨fun m hm => ⟨?claimIndex, ?writeIndex, ?releaseIndex⟩, fun m => ⟨fun hf => ?busy,
      fun hf hq => ?quota, fun ho => ⟨?writeDenied, ?releaseDenied⟩, fun ho hbad => ?invalid⟩⟩⟩
  case claimed =>
    have hb := claimMonitorBlock_of_room (s := s.endFrame p) (p := p) (m := m) hf hq
    rw [exec_claimMonitor, answerAttached_setMonitor hs hb]
    rfl
  case written =>
    have hb := writeMonitorBlock_of_good (s := s.endFrame p) (p := p) (m := m) ho
      (checkMonitor_of_ordered (s := s.endFrame p) hc hl ht)
    rw [exec_writeMonitor, answerAttached_setMonitor hs hb]
    rfl
  case released =>
    have hb := releaseMonitorBlock_of_owned (s := s.endFrame p) (p := p) (m := m) ho
    rw [exec_releaseMonitor, answerAttached_setMonitor hs hb]
    rfl
  case claimIndex => rw [exec_claimMonitor, answerAttached_unchanged hs (claimMonitorBlock_of_le hm)]
  case writeIndex => rw [exec_writeMonitor, answerAttached_unchanged hs (writeMonitorBlock_of_le hm)]
  case releaseIndex => rw [exec_releaseMonitor, answerAttached_unchanged hs (releaseMonitorBlock_of_le hm)]
  case busy => rw [exec_claimMonitor, answerAttached_unchanged hs (claimMonitorBlock_of_not_free hf)]
  case quota => rw [exec_claimMonitor, answerAttached_unchanged hs (claimMonitorBlock_of_quota hf hq)]
  case writeDenied => rw [exec_writeMonitor, answerAttached_unchanged hs (writeMonitorBlock_of_not_owned ho)]
  case releaseDenied => rw [exec_releaseMonitor, answerAttached_unchanged hs (releaseMonitorBlock_of_not_owned ho)]
  case invalid =>
    have hc : (s.endFrame p).checkMonitor (.own p) raw = none := by
      rcases hbad with hn | ⟨c, hc, hbad⟩
      · exact checkMonitor_of_unread hn
      · exact checkMonitor_of_bad hc hbad
    rw [exec_writeMonitor, answerAttached_unchanged hs (writeMonitorBlock_of_bad ho hc)]

end Sys2Proof.Machine
end

section
/-! PROPOSE: the checks of a subject, a proposal that opens, and one that is adopted at once. -/

namespace Sys2Proof.Machine

/-! ### The checks of a subject -/

section
variable {s : State} {e : EntryId} {raw : RawEntry}

theorem readSubject_entrySet_of_proposable (h : (s.entry e).state = .free ∨ (s.entry e).state = .shared) :
    s.readSubject (.entrySet (BitVec.ofNat 8 e.val) raw) = (s.checkContents .common e raw).map (.entrySet e) := by
  rw [State.readSubject, State.readEntrySet, indexOf_ofNat_fin32]
  exact if_pos (proposable_iff.2 h)

theorem readSubject_entrySet_of_not_proposable (hf : (s.entry e).state ≠ .free) (hs : (s.entry e).state ≠ .shared) :
    s.readSubject (.entrySet (BitVec.ofNat 8 e.val) raw) = .error .invalid := by
  rw [State.readSubject, State.readEntrySet, indexOf_ofNat_fin32]
  exact if_neg fun h => (proposable_iff.1 h).elim hf hs

theorem readSubject_entryRemove : s.readSubject (.entryRemove (BitVec.ofNat 8 e.val)) =
    if (s.entry e).state = .shared then .ok (.entryRemove e) else .error .invalid := by
  rw [State.readSubject, State.readEntryRemove, indexOf_ofNat_fin32]

theorem readSubject_entry_of_le {b : Byte} (h : 32 ≤ b.toNat) :
    s.readSubject (.entrySet b raw) = .error .invalid ∧ s.readSubject (.entryRemove b) = .error .invalid := by
  simp [State.readSubject, State.readEntrySet, State.readEntryRemove, indexOf_eq_none h]

end

section
variable {s : State} {m : MonId} {raw : RawMonitor}

theorem readSubject_monitorSet_of_proposable (h : (s.monitor m).state = .free ∨ (s.monitor m).state = .shared)
    {c : MonitorContents} (hc : s.checkMonitor .common raw = some c) :
    s.readSubject (.monitorSet (BitVec.ofNat 8 m.val) raw) = .ok (.monitorSet m c) := by
  simp [State.readSubject, State.readMonitorSet, proposable_iff.2 h, hc]

theorem readSubject_monitorSet_of_not_proposable (hf : (s.monitor m).state ≠ .free)
    (hs : (s.monitor m).state ≠ .shared) :
    s.readSubject (.monitorSet (BitVec.ofNat 8 m.val) raw) = .error .invalid := by
  rw [State.readSubject, State.readMonitorSet, indexOf_ofNat_fin12]
  exact if_neg fun h => (proposable_iff.1 h).elim hf hs

theorem readSubject_monitorSet_of_bad (hc : s.checkMonitor .common raw = none) :
    s.readSubject (.monitorSet (BitVec.ofNat 8 m.val) raw) = .error .invalid := by
  simp [State.readSubject, State.readMonitorSet, hc]

theorem readSubject_monitorRemove : s.readSubject (.monitorRemove (BitVec.ofNat 8 m.val)) =
    if (s.monitor m).state = .shared then .ok (.monitorRemove m) else .error .invalid := by
  rw [State.readSubject, State.readMonitorRemove, indexOf_ofNat_fin12]

theorem readSubject_monitor_of_le {b : Byte} (h : 12 ≤ b.toNat) :
    s.readSubject (.monitorSet b raw) = .error .invalid ∧ s.readSubject (.monitorRemove b) = .error .invalid := by
  simp [State.readSubject, State.readMonitorSet, State.readMonitorRemove, indexOf_eq_none h]

end

theorem readRun_of_le : ∀ {b : Byte}, 2 ≤ b.toNat → readRun b = none := by decide

theorem readEdgeMode_of_le : ∀ {b : Byte}, 4 ≤ b.toNat → readEdgeMode b = none := by decide

theorem readClockMode_of_lt : ∀ {b : Byte}, 2 < b.toNat → readClockMode b = none := by decide

theorem readClockMode_of_le {b : Byte} (h : b.toNat ≤ 2) : ∃ m, readClockMode b = some m ∧ clockModeByte m = b := by
  obtain rfl | rfl | rfl : b = 0 ∨ b = 1 ∨ b = 2 := by bv_omega
  · exact ⟨.internal, rfl, rfl⟩
  · exact ⟨.multiplied, rfl, rfl⟩
  · exact ⟨.external, rfl, rfl⟩

theorem readDivider_of_not_mem {b : Byte} (h : b ∉ ([1, 2, 4, 8] : List Byte)) : readDivider b = none := by
  simp only [List.mem_cons, List.not_mem_nil, or_false, not_or] at h
  obtain ⟨h1, h2, h4, h8⟩ := h
  rw [readDivider, if_neg h1, if_neg h2, if_neg h4, if_neg h8]

theorem readDivider_of_mem {b : Byte} (h : b ∈ ([1, 2, 4, 8] : List Byte)) :
    ∃ d, readDivider b = some d ∧ dividerByte d = b := by
  simp only [List.mem_cons, List.not_mem_nil, or_false] at h
  obtain rfl | rfl | rfl | rfl := h
  · exact ⟨.d1, rfl, rfl⟩
  · exact ⟨.d2, rfl, rfl⟩
  · exact ⟨.d4, rfl, rfl⟩
  · exact ⟨.d8, rfl, rfl⟩

theorem readTimerSet_ofNat (i : TimerId) {period : BitVec 16} (hp : period ≠ 0) {b : Byte} {run : Bool}
    (hr : readRun b = some run) :
    readTimerSet (BitVec.ofNat 8 i.val) period b = .ok (.timerSet i period run) := by
  rw [readTimerSet, indexOf_ofNat_fin4, hr]
  exact if_neg hp

theorem readTimerSet_of_bad {k : Byte} {period : BitVec 16} {run : Byte}
    (h : 4 ≤ k.toNat ∨ period = 0 ∨ 2 ≤ run.toNat) : readTimerSet k period run = .error .invalid := by
  unfold readTimerSet
  split
  · rename_i i r hk hr
    rcases h with h | h | h
    · rw [indexOf_eq_none h] at hk
      cases hk
    · exact if_pos h
    · rw [readRun_of_le h] at hr
      cases hr
  · rfl

theorem readPinSet_ofNat (k : PinId) (mode : EdgeMode) :
    readPinSet (BitVec.ofNat 8 k.val) (edgeModeByte mode) = .ok (.pinSet k mode) := by
  have h : readEdgeMode (edgeModeByte mode) = some mode := by cases mode <;> rfl
  simp [readPinSet, h]

theorem readPinSet_of_bad {k edge : Byte} (h : 4 ≤ k.toNat ∨ 4 ≤ edge.toNat) :
    readPinSet k edge = .error .invalid := by
  unfold readPinSet
  split
  · rename_i i r hk hr
    rcases h with h | h
    · rw [indexOf_eq_none h] at hk
      cases hk
    · rw [readEdgeMode_of_le h] at hr
      cases hr
  · rfl

theorem readClockSet_of_bad {mode divider : Byte}
    (h : 2 < mode.toNat ∨ divider ∉ ([1, 2, 4, 8] : List Byte) ∨ (mode = 1 ∧ divider = 1)) :
    readClockSet mode divider = .error .invalid := by
  have hn : readClockSetting mode divider = none := by
    rcases h with h | h | ⟨rfl, rfl⟩
    · rw [readClockSetting, readClockMode_of_lt h]
    · rw [readClockSetting, readDivider_of_not_mem h]
      cases readClockMode mode <;> rfl
    · rfl
  rw [readClockSet, hn]

theorem readClockSet_of_good {mode divider : Byte} (hm : mode.toNat ≤ 2) (hd : divider ∈ ([1, 2, 4, 8] : List Byte))
    (hno : ¬(mode = 1 ∧ divider = 1)) : ∃ r, readClockSet mode divider = .ok (.clockSet r) ∧
      clockModeByte r.mode = mode ∧ dividerByte r.divider = divider := by
  obtain ⟨m, hm, hmb⟩ := readClockMode_of_le hm
  obtain ⟨d, hd, hdb⟩ := readDivider_of_mem hd
  have hok : ¬(m = .multiplied ∧ d = .d1) := by
    rintro ⟨rfl, rfl⟩
    exact hno ⟨hmb.symm, hdb.symm⟩
  refine ⟨⟨m, d⟩, ?_, hmb, hdb⟩
  rw [readClockSet, readClockSetting, hm, hd]
  simp only [if_neg hok]

/-! ### The block -/

theorem exec_propose (p : Port) (tag : Byte) (raw : RawSubject) (s : State) :
    exec (.propose p tag raw) s = .next (s.answerAttached p tag 0x38 (proposeBlock p raw)) := rfl

section
variable {s : State} {p : Port} {raw : RawSubject}

theorem proposeBlock_of_open {pr : Proposal} (h : s.proposal = some pr) : proposeBlock p raw s = (s, ⟨.busy, [pr.id]⟩) := by
  rw [proposeBlock, h]

theorem switchBusy_eq_false (h : ∀ mode divider, raw = .clockSet mode divider → s.clock.phase = .none) :
    s.switchBusy raw = false := by
  cases raw with
  | clockSet mode divider => simp [State.switchBusy, h mode divider rfl]
  | _ => rfl

variable (hn : s.proposal = none)
include hn

theorem proposeBlock_of_switching {mode divider : Byte} (hp : s.clock.phase ≠ .none) :
    proposeBlock p (.clockSet mode divider) s = (s, ⟨.busy, []⟩) := by
  have hb : s.switchBusy (.clockSet mode divider) = true := bne_iff_ne.2 hp
  rw [proposeBlock, hn]
  simp only [hb, if_true]
  rfl

variable (hb : s.switchBusy raw = false)
include hb

theorem proposeBlock_of_error {st : Status} (hr : s.readSubject raw = .error st) :
    proposeBlock p raw s = (s, ⟨st, []⟩) := by
  rw [proposeBlock, hn]
  simp only [hb, Bool.false_eq_true, if_false, hr]
  rfl

theorem proposeBlock_of_ok {subject : Subject} (hr : s.readSubject raw = .ok subject) :
    proposeBlock p raw s = s.proposed p subject := by
  rw [proposeBlock, hn]
  simp only [hb, Bool.false_eq_true, if_false, hr]

end

/-- Settles O47: each check by the subject's kind, and the refusals as blocks that change nothing. -/
theorem proposeChecks : Obligations.ProposeChecks := by
  refine ⟨fun s p tag raw hs => ⟨fun pr hp => ?opened, fun hn => ⟨fun mode divider hraw hp => ?switching,
      fun hfree st hr => ?refused⟩⟩, fun s => ⟨fun e raw c h hc => ?entrySet, fun e raw st h hc => ?entryBad,
    fun e raw => readSubject_entrySet_of_not_proposable, fun e => ⟨fun h => ?entryRemove, fun h => ?entryStays⟩,
    fun m => ⟨fun h => ?monitorRemove, fun h => ?monitorStays⟩,
    fun k period run => ⟨fun i hk hp => ⟨fun hrun => ?stopped, fun hrun => ?running⟩, readTimerSet_of_bad⟩,
    fun b raw => readSubject_entry_of_le, fun b raw => readSubject_monitor_of_le,
    fun m raw => ⟨readSubject_monitorSet_of_not_proposable, fun hn => ?unread, fun c hc => ⟨fun hbad => ?monitorBad,
      fun h hl ht => ?monitorSet⟩⟩,
    fun k edge => readPinSet_of_bad, fun k mode => ?pin,
    fun mode divider => ⟨readClockSet_of_bad, readClockSet_of_good⟩, fun period => rfl, fun window hw => if_neg hw, rfl⟩⟩
  case opened => rw [exec_propose, answerAttached_unchanged hs (proposeBlock_of_open (s := s.endFrame p) hp)]
  case switching =>
    subst hraw
    rw [exec_propose, answerAttached_unchanged hs (proposeBlock_of_switching (s := s.endFrame p) hn hp)]
  case refused =>
    have hb := proposeBlock_of_error (s := s.endFrame p) (p := p) hn (switchBusy_eq_false hfree)
      ((State.readSubject_endFrame ..).trans hr)
    rw [exec_propose, answerAttached_unchanged hs hb]
  case entrySet =>
    rw [readSubject_entrySet_of_proposable h, hc]
    rfl
  case entryBad =>
    rw [readSubject_entrySet_of_proposable h, hc]
    rfl
  case entryRemove => rw [readSubject_entryRemove, if_pos h]
  case entryStays => rw [readSubject_entryRemove, if_neg h]
  case monitorRemove => rw [readSubject_monitorRemove, if_pos h]
  case monitorStays => rw [readSubject_monitorRemove, if_neg h]
  case stopped =>
    subst hk hrun
    exact readTimerSet_ofNat i hp rfl
  case running =>
    subst hk hrun
    exact readTimerSet_ofNat i hp rfl
  case unread => exact readSubject_monitorSet_of_bad (checkMonitor_of_unread hn)
  case monitorBad => exact readSubject_monitorSet_of_bad (checkMonitor_of_bad hc hbad)
  case monitorSet => exact readSubject_monitorSet_of_proposable h (checkMonitor_of_ordered hc hl ht)
  case pin =>
    cases mode with
    | off => exact readPinSet_ofNat k .off
    | rising => exact readPinSet_ofNat k .rising
    | falling => exact readPinSet_ofNat k .falling
    | both => exact readPinSet_ofNat k .both

/-! ### A proposal that opens -/

theorem reserve_endFrame (s : State) (p : Port) (x : Subject) : (s.endFrame p).reserve x = (s.reserve x).endFrame p := by
  cases x with
  | entrySet e c =>
    show (if _ then _ else _) = State.endFrame (if _ then _ else _) p
    rw [State.entry_endFrame]
    split <;> rfl
  | monitorSet m c =>
    show (if _ then _ else _) = State.endFrame (if _ then _ else _) p
    rw [State.monitor_endFrame]
    split <;> rfl
  | _ => rfl

theorem openProposal_endFrame (s : State) (p q : Port) (x : Subject) :
    (s.endFrame p).openProposal q x = (s.openProposal q x).endFrame p := by
  have hw : (s.endFrame p).withOpening q x = (s.withOpening q x).endFrame p := by
    rw [State.withOpening, State.opening, votersFor_endFrame]
    rfl
  rw [openProposal_eq, openProposal_eq, hw, reserve_endFrame, votersFor_endFrame, raise_endFrame]
  rfl

/-- A subject that passes its checks is settled alike before and after the frame's end. -/
theorem proposed_endFrame (s : State) (p : Port) (x : Subject) :
    (s.endFrame p).proposed p x = ((s.proposed p x).1.endFrame p, (s.proposed p x).2) := by
  simp only [State.proposed, votersFor_endFrame, openProposal_endFrame]
  split
  · exact congrArg (·, _) (install_endFrame { s with nextId := s.nextId + 1 } p x)
  · rfl

theorem exec_propose_of_ok {s : State} {p : Port} (hs : Serves s p) (tag : Byte) {raw : RawSubject} {subject : Subject}
    (hn : s.proposal = none) (hfree : ∀ mode divider, raw = .clockSet mode divider → s.clock.phase = .none)
    (hr : s.readSubject raw = .ok subject) {u : State} {st : Status} {data : List Byte}
    (hu : s.proposed p subject = (u, ⟨st, data⟩)) :
    exec (.propose p tag raw) s = .next (u.answered p ⟨tag, 0x38, st, data⟩) := by
  have hb := proposeBlock_of_ok (s := s.endFrame p) (p := p) hn (switchBusy_eq_false hfree)
    ((State.readSubject_endFrame ..).trans hr)
  rw [proposed_endFrame, hu] at hb
  rw [exec_propose, answerAttached_of_endFrame hs hb]

theorem votersFor_of_ne (s : State) {p q : Port} (h : q ≠ p) : (s.votersFor p).get q = (s.port q).attached := by
  rw [Bool.eq_iff_iff, get_votersFor]
  exact and_iff_left h

theorem votersFor_self (s : State) (p : Port) : (s.votersFor p).get p = false := by
  rw [← Bool.not_eq_true, get_votersFor]
  exact fun h => h.2 rfl

theorem votersFor_of_alone {s : State} {p : Port} (h : ∀ q, q ≠ p → (s.port q).attached = false) (q : Port) :
    (s.votersFor p).get q = false := by
  by_cases hq : q = p
  · rw [hq, votersFor_self]
  · rw [votersFor_of_ne s hq, h q hq]

theorem proposed_of_voter {s : State} {p q : Port} (hq : q ≠ p) (ha : (s.port q).attached = true) (x : Subject) :
    s.proposed p x = (s.openProposal p x, ⟨.ok, proposeData s .opened (s.votersFor p)⟩) := by
  rw [State.proposed, if_neg]
  intro h
  have := (noPort_iff _).1 h q
  rw [votersFor_of_ne s hq, ha] at this
  cases this

theorem proposed_of_alone {s : State} {p : Port} (h : ∀ q, q ≠ p → (s.port q).attached = false) (x : Subject) :
    s.proposed p x = (({ s with nextId := s.nextId + 1 } : State).install x,
      ⟨.ok, proposeData s .adopted (s.votersFor p)⟩) := by
  rw [State.proposed, if_pos ((noPort_iff _).2 (votersFor_of_alone h))]

/-! ### Reservations -/

theorem reserve_frame (s : State) (x : Subject) :
    s.reserve x = { s with entries := (s.reserve x).entries, monitors := (s.reserve x).monitors } := by
  cases x with
  | entrySet e c =>
    show (if _ then _ else _) = _
    rw [State.reserve]
    split <;> rfl
  | monitorSet m c =>
    show (if _ then _ else _) = _
    rw [State.reserve]
    split <;> rfl
  | _ => rfl

theorem entry_reserve_of_free {s : State} {e : EntryId} (h : (s.entry e).state = .free) (c : EntryContents) :
    (s.reserve (.entrySet e c)).entry e = { s.entry e with state := .reserved } := by
  rw [State.reserve, if_pos h, State.entry_setEntry, if_pos rfl]

theorem entry_reserve_of_other {s : State} {e : EntryId} {x : Subject}
    (h : (∀ c, x ≠ .entrySet e c) ∨ (s.entry e).state ≠ .free) : (s.reserve x).entry e = s.entry e := by
  cases x with
  | entrySet i c =>
    rw [State.reserve]
    split
    · rename_i hi
      rw [State.entry_setEntry, if_neg]
      rintro rfl
      exact h.elim (fun h => h c rfl) fun h => h hi
    · rfl
  | monitorSet m c =>
    rw [State.reserve]
    split <;> rfl
  | _ => rfl

theorem monitor_reserve_of_free {s : State} {m : MonId} (h : (s.monitor m).state = .free) (c : MonitorContents) :
    (s.reserve (.monitorSet m c)).monitor m = { s.monitor m with state := .reserved } := by
  rw [State.reserve, if_pos h, State.monitor_setMonitor, if_pos rfl]

theorem monitor_reserve_of_other {s : State} {m : MonId} {x : Subject}
    (h : (∀ c, x ≠ .monitorSet m c) ∨ (s.monitor m).state ≠ .free) : (s.reserve x).monitor m = s.monitor m := by
  cases x with
  | monitorSet i c =>
    rw [State.reserve]
    split
    · rename_i hi
      rw [State.monitor_setMonitor, if_neg]
      rintro rfl
      exact h.elim (fun h => h c rfl) fun h => h hi
    · rfl
  | entrySet e c =>
    rw [State.reserve]
    split <;> rfl
  | _ => rfl

/-- The opening changes the Proposal Slot, the reserved item and the event queues. -/
theorem openProposal_frame (s : State) (p : Port) (x : Subject) : s.openProposal p x = { s with
    proposal := some (s.opening p x), nextId := s.nextId + 1, entries := (s.openProposal p x).entries
    monitors := (s.openProposal p x).monitors, ports := (s.openProposal p x).ports } := by
  rw [openProposal_eq]
  have h := reserve_frame (s.withOpening p x) x
  generalize (s.withOpening p x).reserve x = t at h ⊢
  rw [h]
  rfl

theorem port_openProposal (s : State) (p q : Port) (x : Subject) : (s.openProposal p x).port q =
    (s.port q).receive ((s.votersFor p).get q) (.proposal s.nextId .opened p) s.timebase := by
  have hp : ((s.withOpening p x).reserve x).port q = s.port q := by
    rw [State.port, ports_reserve]
    rfl
  have ht : ((s.withOpening p x).reserve x).timebase = s.timebase := by
    rw [reserve_frame]
    rfl
  rw [openProposal_eq, State.port_raise, hp, ht]

/-- A notice reaches an attached port alone. -/
theorem receive_of_attached (x : PortState) (n : Notice) (now : Time) : x.receive x.attached n now = x.receive true n now := by
  rw [PortState.receive_eq, PortState.receive_eq]
  simp

/-- Settles O48: the opening commutes with the frame's end; the author is no voter and gets no notice. -/
theorem proposeOpens : Obligations.ProposeOpens := by
  intro s p q tag raw subject hs hn hq ha hfree hr
  refine ⟨(s.openProposal p subject).answered p ⟨tag, 0x38, .ok, proposeData s .opened (s.votersFor p)⟩,
    s.opening p subject, ?proposed, ?rest, rfl, rfl, rfl, rfl, fun v => ?required, fun v => ?accepted,
    fun e c hx he => ?reserved, fun e he => entry_reserve_of_other (s := s.withOpening p subject) he,
    fun m c hx hm => ?reservedMonitor,
    fun m hm => monitor_reserve_of_other (s := s.withOpening p subject) hm, ?author, fun v hv => ?voter⟩
  case proposed => rw [exec_propose_of_ok hs tag hn hfree hr (proposed_of_voter hq ha subject)]
  case rest =>
    have h := openProposal_frame s p subject
    generalize s.openProposal p subject = u at h ⊢
    rw [h]
    rfl
  case required =>
    show (s.votersFor p).get v = true ↔ _
    rw [get_votersFor]
    simp [and_comm]
  case accepted => exact PerPort.get_fill ..
  case reserved =>
    subst hx
    exact entry_reserve_of_free (s := s.withOpening p _) he c
  case reservedMonitor =>
    subst hx
    exact monitor_reserve_of_free (s := s.withOpening p _) hm c
  case author =>
    have ht : (s.openProposal p subject).timebase = s.timebase := by rw [openProposal_frame]
    rw [State.answered, State.port_setPort, if_pos rfl, port_openProposal, votersFor_self, PortState.receive_false, ht]
    rfl
  case voter =>
    rw [port_answered_of_ne hv, port_openProposal, votersFor_of_ne s hv, receive_of_attached]
    rfl

/-- Settles O49: the installation commutes with the frame's end, and nobody is required. -/
theorem proposeAdoptsAlone : Obligations.ProposeAdoptsAlone := by
  intro s p tag raw subject hs hn halone hfree hr
  have hdata : proposeData s .adopted (s.votersFor p) =
      [s.nextId, 0x01, 0x00] ++ be32 (s.timebase + BitVec.ofNat 32 (s.window.toNat * 1000)) := by
    have hnone : s.votersFor p = .fill false := by
      apply PerPort.ext_get
      intro q
      rw [votersFor_of_alone halone, PerPort.get_fill]
    rw [hnone]
    rfl
  refine ⟨(({ s with nextId := s.nextId + 1 } : State).install subject).answered p ⟨tag, 0x38, .ok,
    [s.nextId, 0x01, 0x00] ++ be32 (s.timebase + BitVec.ofNat 32 (s.window.toNat * 1000))⟩, ?proposed, rfl, ?answered,
    fun q => events_answered ..⟩
  case proposed => rw [exec_propose_of_ok hs tag hn hfree hr (proposed_of_alone halone subject), hdata]
  case answered =>
    exact answered_of_sameButEvents (s := s) (fun q => install_sameButEvents { s with nextId := s.nextId + 1 } subject q)
      (by rw [install_frame]) _

end Sys2Proof.Machine
end

section
/-! The Proposal Slot: installations, VOTE, WITHDRAW and PROPOSAL_EXPIRY. -/

namespace Sys2Proof.Machine

/-! ### Installations -/

theorem noticeSet_shared (s : State) (kind : Subscriptions → Bool) (q : Port) :
    (s.noticeSet .shared kind).get q = kind (s.port q).subs := by
  rw [Bool.eq_iff_iff, noticeSet_iff]
  simp

section
variable {s : State}

theorem install_entrySet_of_unscoped {e : EntryId} (h : (s.entry e).state = .free ∨ (s.entry e).state = .reserved)
    (c : EntryContents) : s.install (.entrySet e c) = s.setEntry e ((s.entry e).install .shared c) := by
  rcases h with h | h <;> rw [State.install, State.installEntry, h]

theorem install_entrySet_of_shared {e : EntryId} (h : (s.entry e).state = .shared) (c : EntryContents) :
    s.install (.entrySet e c) = s.edited e c := by
  rw [State.install, State.installEntry, h]
  rfl

theorem install_monitorSet_of_unscoped {m : MonId} (h : (s.monitor m).state = .free ∨ (s.monitor m).state = .reserved)
    (c : MonitorContents) : s.install (.monitorSet m c) = s.setMonitor m ((s.monitor m).install .shared c 0) := by
  rcases h with h | h <;> rw [State.install, State.installMonitor, h]

theorem install_monitorSet_of_shared {m : MonId} (h : (s.monitor m).state = .shared) (c : MonitorContents) :
    s.install (.monitorSet m c) = s.setMonitor m ((s.monitor m).install .shared c (s.monitor m).crossings) := by
  rw [State.install, State.installMonitor, h]

/-- Every attached port that subscribes to LOSS is told of the ticket that an edit discards. -/
theorem port_edited_of_shared {e : EntryId} (h : (s.entry e).state = .shared) (c : EntryContents) (q : Port) :
    (s.edited e c).port q =
      (s.port q).receive (decide (∃ k ∈ s.queue, k.entry = e) && (s.port q).subs.loss) (.discarded e .edited)
        s.timebase := by
  have hk : (s.ticketOf e).isSome = decide (∃ k ∈ s.queue, k.entry = e) := by
    rw [Bool.eq_iff_iff, ticketOf_isSome_iff, decide_eq_true_iff]
  rw [port_edited, h, noticeSet_shared, hk]

end

/-- Settles O50: each installation by its definition, and the two that discard a ticket by the edit and the release
procedure. -/
theorem adoptionInstalls : Obligations.AdoptionInstalls := by
  refine ⟨fun s => ⟨fun e c h => ?newEntry, fun e c h => ?editedEntry, fun m c h => ?newMonitor, fun m c h => ?editedMonitor,
      fun m => rfl, fun k period => rfl, fun k period => rfl, fun k edge => rfl, fun r => rfl, fun period => rfl,
      fun window => rfl⟩,
    fun s e h hl => ⟨leaveScope_frame s e true, ?self, fun x hx => ?others, hl.monitor_leaveScope h true, ?queue,
      fun q => ?events⟩⟩
  case newEntry =>
    rw [install_entrySet_of_unscoped h]
    rfl
  case editedEntry =>
    rw [install_entrySet_of_shared h]
    refine ⟨?_, ?_, fun x hx => ?_, ?_, port_edited_of_shared h c⟩
    · have hf := edited_frame s e c
      generalize s.edited e c = u at hf ⊢
      rw [hf]
    · rw [entry_edited, if_pos rfl]
      rfl
    · rw [entry_edited, if_neg hx]
    · rw [edited_frame, ← filter_bne_eq]
  case newMonitor =>
    rw [install_monitorSet_of_unscoped h]
    rfl
  case editedMonitor =>
    rw [install_monitorSet_of_shared h]
    rfl
  case self =>
    show (s.leaveScope e true).entry e = _
    rw [entry_leaveScope, if_pos rfl]
  case others =>
    show (s.leaveScope e true).entry x = _
    rw [entry_leaveScope, if_neg hx, h]
  case queue =>
    show (s.leaveScope e true).queue = _
    rw [queue_leaveScope, filter_bne_eq]
  case events =>
    show (s.leaveScope e true).port q = _
    rw [hl.events_leaveScope h, noticeSet_shared, noticeSet_shared]

/-! ### VOTE -/

/-- A served command whose block makes `t`: the answer is placed there and the session timer restarts there. -/
theorem answerAttached_placed {s : State} {p : Port} (h : Serves s p) {tag code : Byte}
    {block : State → State × Answer} {t : State} {st : Status} {data : List Byte}
    (hb : block (s.endFrame p) = (t, ⟨st, data⟩)) :
    s.answerAttached p tag code block = (t.place p ⟨tag, code, st, data⟩).restart p := by
  rw [answerAttached_served h, State.answer, if_pos (judges_of_judged h.1), hb]

theorem outstanding_eq (pr : Proposal) : pr.outstanding =
    (([.a, .b, .c] : List Port).filter fun q => pr.required.get q && !pr.accepted.get q).length := by
  rw [Proposal.outstanding, List.countP_eq_length_filter]
  rfl

theorem exec_vote (p : Port) (tag id choice : Byte) (s : State) :
    exec (.vote p tag id choice) s = .next (s.answerAttached p tag 0x39 (voteBlock p id choice)) := rfl

theorem readChoice_of_not {b : Byte} (h1 : b ≠ 1) (h2 : b ≠ 2) : readChoice b = none := by
  rw [readChoice, if_neg h1, if_neg h2]

theorem readChoice_of {b : Byte} (h : b = 1 ∨ b = 2) : ∃ accept, readChoice b = some accept := by
  rcases h with rfl | rfl
  · exact ⟨true, rfl⟩
  · exact ⟨false, rfl⟩

section
variable {s : State} {p : Port} {id choice : Byte}

theorem voteBlock_of_bad_choice (h : readChoice choice = none) : voteBlock p id choice s = (s, ⟨.invalid, []⟩) := by
  rw [voteBlock, h]
  rfl

variable {accept : Bool} (hc : readChoice choice = some accept)
include hc

theorem voteBlock_of_no_proposal (h : ∀ pr, s.proposal = some pr → pr.id ≠ id) :
    voteBlock p id choice s = (s, ⟨.noProposal, []⟩) := by
  rcases hp : s.proposal with _ | pr
  · rw [voteBlock, hc, hp]
    rfl
  · rw [voteBlock, hc, hp]
    exact if_pos (h pr hp)

variable {pr : Proposal} (hp : s.proposal = some pr) (hid : pr.id = id)
include hp hid

theorem voteBlock_of_not_required (h : pr.required.get p = false) : voteBlock p id choice s = (s, ⟨.denied, []⟩) := by
  simp [voteBlock, hc, hp, hid, h, Answer.bare]

theorem voteBlock_of_accepted (h : pr.required.get p = true) (ha : pr.accepted.get p = true) :
    voteBlock p id choice s = (s, ⟨.already, []⟩) := by
  simp [voteBlock, hc, hp, hid, h, ha, Answer.bare]

theorem voteBlock_of_counted (h : pr.required.get p = true) (ha : pr.accepted.get p = false) :
    voteBlock p id choice s = s.counted pr p accept := by
  simp [voteBlock, hc, hp, hid, h, ha]

end

theorem counted_refuse (s : State) (pr : Proposal) (p : Port) :
    s.counted pr p false = (s.close pr .refused, ⟨.ok, [pr.id, 0x02, BitVec.ofNat 8 pr.outstanding]⟩) := rfl

theorem counted_last {s : State} {pr : Proposal} {p : Port} (h : (pr.acceptedBy p).outstanding = 0) :
    s.counted pr p true = (s.close (pr.acceptedBy p) .adopted, ⟨.ok, [pr.id, 0x01, 0]⟩) := by
  rw [State.counted, if_pos rfl, if_pos h, voteData, h]
  rfl

theorem counted_accept {s : State} {pr : Proposal} {p : Port} (h : (pr.acceptedBy p).outstanding ≠ 0) :
    s.counted pr p true = ({ s with proposal := some (pr.acceptedBy p) },
      ⟨.ok, [pr.id, 0x00, BitVec.ofNat 8 (pr.acceptedBy p).outstanding]⟩) := by
  rw [State.counted, if_pos rfl, if_neg h]
  rfl

/-- Settles O51: the checks in order, and a counted vote by its choice and the number outstanding. -/
theorem voteCommand : Obligations.VoteCommand := by
  refine ⟨fun pr => ⟨outstanding_eq pr, outstanding_eq_zero_iff pr⟩, fun s p tag id choice hs => ⟨fun h1 h2 => ?invalid,
    fun hch => ?valid⟩⟩
  case invalid =>
    rw [exec_vote, answerAttached_unchanged hs (voteBlock_of_bad_choice (readChoice_of_not h1 h2))]
  case valid =>
    obtain ⟨accept, hc⟩ := readChoice_of hch
    refine ⟨fun hno => ?noProposal, fun pr hp hid => ⟨fun hr => ?denied, fun hr ha => ?already, fun hr ha =>
      ⟨fun h2 => ?refuse, fun h1 h0 => ?last, fun h1 h0 => ?accept⟩⟩⟩
    case noProposal =>
      rw [exec_vote, answerAttached_unchanged hs (voteBlock_of_no_proposal (s := s.endFrame p) hc hno)]
    case denied =>
      rw [exec_vote, answerAttached_unchanged hs (voteBlock_of_not_required (s := s.endFrame p) hc hp hid hr)]
    case already =>
      rw [exec_vote, answerAttached_unchanged hs (voteBlock_of_accepted (s := s.endFrame p) hc hp hid hr ha)]
    all_goals subst hid
    case refuse =>
      have hb := voteBlock_of_counted (s := s.endFrame p) (choice := choice) (accept := false) (by rw [h2]; rfl) hp rfl hr ha
      rw [exec_vote, answerAttached_placed hs (hb.trans (counted_refuse ..))]
      rfl
    case last =>
      have hb := voteBlock_of_counted (s := s.endFrame p) (choice := choice) (accept := true) (by rw [h1]; rfl) hp rfl hr ha
      rw [exec_vote, answerAttached_placed hs (hb.trans (counted_last h0))]
      rfl
    case accept =>
      have hb := voteBlock_of_counted (s := s.endFrame p) (choice := choice) (accept := true) (by rw [h1]; rfl) hp rfl hr ha
      rw [exec_vote, answerAttached_of_endFrame (u := { s with proposal := some (pr.acceptedBy p) }) hs
        (hb.trans (counted_accept h0))]
      rfl

/-! ### WITHDRAW and PROPOSAL_EXPIRY -/

theorem exec_withdraw (p : Port) (tag id : Byte) (s : State) :
    exec (.withdraw p tag id) s = .next (s.answerAttached p tag 0x3A (withdrawBlock p id)) := rfl

theorem exec_proposalExpiry (s : State) : exec .proposalExpiry s = .next (s.unlessHeld proposalExpiryEvent) := rfl

section
variable {s : State} {p : Port} {id : Byte}

theorem withdrawBlock_of_no_proposal (h : ∀ pr, s.proposal = some pr → pr.id ≠ id) :
    withdrawBlock p id s = (s, ⟨.noProposal, []⟩) := by
  rcases hp : s.proposal with _ | pr
  · rw [withdrawBlock, hp]
    rfl
  · rw [withdrawBlock, hp]
    exact if_pos (h pr hp)

variable {pr : Proposal} (hp : s.proposal = some pr)
include hp

theorem withdrawBlock_of_other (hid : pr.id = id) (ha : pr.author ≠ p) :
    withdrawBlock p id s = (s, ⟨.denied, []⟩) := by
  simp [withdrawBlock, hp, hid, ha, Answer.bare]

theorem withdrawBlock_of_author (hid : pr.id = id) (ha : pr.author = p) :
    withdrawBlock p id s = (s.close pr .withdrawn, ⟨.ok, [id]⟩) := by
  simp [withdrawBlock, hp, hid, ha]

theorem proposalExpiryEvent_of_due (hd : pr.deadline = s.timebase) : proposalExpiryEvent s = s.close pr .expired := by
  rw [proposalExpiryEvent, hp]
  exact if_pos hd

theorem proposalExpiryEvent_of_not_due (hd : pr.deadline ≠ s.timebase) : proposalExpiryEvent s = s := by
  rw [proposalExpiryEvent, hp]
  exact if_neg hd

end

theorem proposalExpiryEvent_of_none {s : State} (h : s.proposal = none) : proposalExpiryEvent s = s := by
  rw [proposalExpiryEvent, h]

/-- Settles O52: the checks in order, and the close as it stands. -/
theorem withdrawAndExpiryCommands : Obligations.WithdrawAndExpiryCommands := by
  refine ⟨fun s p tag id hs => ⟨fun hno => ?noProposal, fun pr hp hid => ⟨fun ha => ?denied, fun ha => ?withdrawn⟩⟩,
    fun s pr hr hp => ⟨fun hd => ?expired, fun hd => ?waits⟩, fun s hn => ?none⟩
  case noProposal =>
    rw [exec_withdraw, answerAttached_unchanged hs (withdrawBlock_of_no_proposal (s := s.endFrame p) hno)]
  case denied =>
    rw [exec_withdraw, answerAttached_unchanged hs (withdrawBlock_of_other (s := s.endFrame p) hp hid ha)]
  case withdrawn =>
    rw [exec_withdraw, answerAttached_placed hs (withdrawBlock_of_author (s := s.endFrame p) hp hid ha)]
    rfl
  case expired => rw [exec_proposalExpiry, unlessHeld_released hr, proposalExpiryEvent_of_due hp hd]
  case waits => rw [exec_proposalExpiry, unlessHeld_released hr, proposalExpiryEvent_of_not_due hp hd]
  case none => rw [exec_proposalExpiry, unlessHeld_of_unchanged (proposalExpiryEvent_of_none hn)]

end Sys2Proof.Machine
end
